-- ==== Sys2Proof/Word.lean ====
section
/-! DEFINITION. The word types of the engine (spec 00_scope.md R5, R11, R12): bytes, host words, word addresses,
byte strings, and the two fixed-length byte strings, a block (B = 16 bytes) and a key (KEYBYTES = 32 bytes). -/

namespace Sys2Proof

/-- One byte. -/
abbrev Byte := BitVec 8

/-- A 32-bit word of the host port (R10, R60). -/
abbrev Word := BitVec 32

/-- A host address as the port carries it: byte-address bits [21:2] (R10, R60). A misaligned or sub-word
access has no value of this type (R69). -/
abbrev WordAddr := BitVec 20

/-- A byte string of any length (R12). Byte 0 is the head of the list. -/
abbrev Bytes := List Byte

/-- `Bytes(16)`: a block, an IV, a counter block. The block size B is 16 (R5). -/
abbrev Block := Vector Byte 16

/-- `Bytes(32)`: a key. KEYBYTES is 32 (R5). -/
abbrev Key := Vector Byte 32

end Sys2Proof
end

