-- ==== Sys2Proof/Config.lean ====
section
/-! DEFINITION. What one hardware instance fixes (the block primitive, the input-buffer capacity, whether the ports
answer) and the free values (draws) that the spec leaves open (93_implementation_defined.md U1 to U7, U9, U11).
Every one of them is an opaque constant without a body, so no proof can see a value of it. -/

namespace Sys2Proof

/-- The block primitive (00_scope.md R7): two total functions with the one law `Dec K (Enc K X) = X`. -/
structure BlockPrimitive where
  /-- `Enc(K, X)`, the source's encrypt_block. -/
  enc : Key → Block → Block
  /-- `Dec(K, X)`, the source's decrypt_block. -/
  dec : Key → Block → Block
  /-- The law Dec_Enc of R7. -/
  dec_enc : ∀ K X, dec K (enc K X) = X

/-- The primitive of this hardware instance as one permutation of blocks for each key. A pair of functions meets the
law of R7 exactly when it is a permutation and its inverse, because there are finitely many blocks (log entry 2). -/
opaque Config.blockPermutation : Key → Equiv.Perm Block

/-- `Enc` and `Dec` of this hardware instance (R7, U6): a parameter. AES-256 is one instance, and nothing here says
that it is this one. -/
def Config.primitive : BlockPrimitive where
  enc K X := Config.blockPermutation K X
  dec K X := (Config.blockPermutation K).symm X
  dec_enc K X := (Config.blockPermutation K).symm_apply_apply X

/-- How many blocks IBUF holds beyond the least two. -/
opaque Config.extraBlocks : Fin 65533

/-- IBUF_SIZE (R6, U11): a parameter, a multiple of 16 from 32 to 1048544. Every such number is the value for exactly
one value of `Config.extraBlocks`. -/
def Config.ibufSize : Nat := 16 * (Config.extraBlocks.val + 2)

/-- OBUF_SIZE = IBUF_SIZE + 2·B (R6). -/
def Config.obufSize : Nat := Config.ibufSize + 32

/-- The premise PORTS_RESPOND (R250, U7): whether the primitive port and the random port answer every request.
A parameter. -/
opaque Config.portsRespond : Bool

/-- The random source (R8, U5): the 16 bytes of draw number n. No law. -/
opaque Config.rngDraw : Nat → Block

/-- The unspecified content of IBUF byte n since hardware reset number e (U1, U2). -/
opaque Config.freeIbufByte : (e : Nat) → (n : Nat) → Byte

/-- The unspecified content of OBUF byte n since the event number e that made it unspecified (U1, U4). -/
opaque Config.freeObufByte : (e : Nat) → (n : Nat) → Byte

/-- The word that unspecified host read number n returns: a read of OBUF or of IV0 to IV3 while busy (U3), or any read
while rst_n = 0 (U9). -/
opaque Config.freeReadWord : Nat → Word

end Sys2Proof
end

