-- ==== Sys2Proof/Syntax.lean ====
section
/-! DEFINITION. The engine's commands, its "instructions" (30_encoding.md R91, R96): one constructor for each of the
28 rows of spec/opcode_table.json. A command names no register operand (R44): what it reads stands in the registers
and IBUF (R99). -/

namespace Sys2Proof

/-- The four modes of operation (R92). -/
inductive Mode where
  | cbc | cfb | ofb | ctr
  deriving DecidableEq, Repr

/-- Where ENCRYPT takes its IV (R93): the random source (IVSRC = 0) or the IV registers (IVSRC = 1). -/
inductive IvSrc where
  | rng | reg
  deriving DecidableEq, Repr

/-- A legal command word. The last four constructors are the words whose MODE field selects no mode: they keep the
three bits of MODE, which `WellFormed` requires to be 4 to 7 (R92, R201). -/
inductive Instr where
  /-- ENCRYPT.cbc rng (R180). -/
  | encryptCbcRng
  /-- ENCRYPT.cfb rng (R180). -/
  | encryptCfbRng
  /-- ENCRYPT.ofb rng (R180). -/
  | encryptOfbRng
  /-- ENCRYPT.ctr rng (R180). -/
  | encryptCtrRng
  /-- ENCRYPT.cbc reg (R180). -/
  | encryptCbcReg
  /-- ENCRYPT.cfb reg (R180). -/
  | encryptCfbReg
  /-- ENCRYPT.ofb reg (R180). -/
  | encryptOfbReg
  /-- ENCRYPT.ctr reg (R180). -/
  | encryptCtrReg
  /-- DECRYPT.cbc (R181). -/
  | decryptCbc
  /-- DECRYPT.cfb (R181). -/
  | decryptCfb
  /-- DECRYPT.ofb (R181). -/
  | decryptOfb
  /-- DECRYPT.ctr (R181). -/
  | decryptCtr
  /-- XFORM_FWD.cbc (R147). -/
  | xformFwdCbc
  /-- XFORM_FWD.cfb (R147). -/
  | xformFwdCfb
  /-- XFORM_FWD.ofb (R147). -/
  | xformFwdOfb
  /-- XFORM_FWD.ctr (R147). -/
  | xformFwdCtr
  /-- XFORM_INV.cbc (R148). -/
  | xformInvCbc
  /-- XFORM_INV.cfb (R148). -/
  | xformInvCfb
  /-- XFORM_INV.ofb (R148). -/
  | xformInvOfb
  /-- XFORM_INV.ctr (R148). -/
  | xformInvCtr
  /-- PAD (R115). -/
  | padData
  /-- UNPAD (R116). -/
  | unpadData
  /-- ENCODE (R173). -/
  | encodeContainer
  /-- DECODE (R174). -/
  | decodeContainer
  /-- ENCRYPT with MODE 4 to 7 and either IV source (R201). -/
  | encryptNoMode (mode : BitVec 3) (src : IvSrc)
  /-- DECRYPT with MODE 4 to 7 (R201). -/
  | decryptNoMode (mode : BitVec 3)
  /-- XFORM_FWD with MODE 4 to 7 (R201). -/
  | xformFwdNoMode (mode : BitVec 3)
  /-- XFORM_INV with MODE 4 to 7 (R201). -/
  | xformInvNoMode (mode : BitVec 3)
  deriving DecidableEq, Repr

end Sys2Proof
end

