-- ==== Sys2Proof/WellFormed.lean ====
section
/-! DEFINITION. Which terms of `Instr` stand for a command word: the MODE bits that an unsupported-mode command keeps
are 4 to 7 (30_encoding.md R92, R96). Every other constructor is well formed as it stands. -/

namespace Sys2Proof

/-- MODE 4 to 7 select no mode (R92). -/
def selectsNoMode (mode : BitVec 3) : Bool := decide (4 ≤ mode.toNat)

/-- The check of one instruction, constructor by constructor. -/
def Instr.wellFormed : Instr → Bool
  | .encryptCbcRng | .encryptCfbRng | .encryptOfbRng | .encryptCtrRng => true
  | .encryptCbcReg | .encryptCfbReg | .encryptOfbReg | .encryptCtrReg => true
  | .decryptCbc | .decryptCfb | .decryptOfb | .decryptCtr => true
  | .xformFwdCbc | .xformFwdCfb | .xformFwdOfb | .xformFwdCtr => true
  | .xformInvCbc | .xformInvCfb | .xformInvOfb | .xformInvCtr => true
  | .padData | .unpadData | .encodeContainer | .decodeContainer => true
  | .encryptNoMode mode _ => selectsNoMode mode
  | .decryptNoMode mode => selectsNoMode mode
  | .xformFwdNoMode mode => selectsNoMode mode
  | .xformInvNoMode mode => selectsNoMode mode

/-- An instruction that stands for a command word. -/
abbrev WellFormed (i : Instr) : Prop := i.wellFormed = true

end Sys2Proof
end

