-- ==== Sys2Proof/Decode.lean ====
section
/-! DEFINITION. The command word (30_encoding.md R90 to R98): its fields, which words are legal, the decoder, total on
all 2^32 words and rejecting an illegal word by the reason, the encoder, and the written form of a command (R104). -/

namespace Sys2Proof

/-- OP, bits [3:0] (R90). -/
def opField (w : Word) : BitVec 4 := w.extractLsb' 0 4

/-- MODE, bits [6:4] (R90). -/
def modeField (w : Word) : BitVec 3 := w.extractLsb' 4 3

/-- IVSRC, bit [7] (R90). -/
def ivsrcField (w : Word) : BitVec 1 := w.extractLsb' 7 1

/-- The reserved bits [31:8] (R90, R94). -/
def reservedField (w : Word) : BitVec 24 := w.extractLsb' 8 24

/-- Why a word is no legal command (R95, R205). Every reason gives the one error IllegalCommand. -/
inductive Illegal where
  /-- A reserved bit is set (R94). -/
  | reservedBits
  /-- OP is 0 or 9 to 15 (R91). -/
  | opcode
  /-- IVSRC = 1 on an OP other than ENCRYPT (R93). -/
  | ivsrc
  /-- MODE ≠ 0 on PAD, UNPAD, ENCODE or DECODE (R92). -/
  | mode
  deriving DecidableEq, Repr

/-- The mode that MODE selects, where it selects one (R92). -/
def Mode.ofField (m : BitVec 3) : Option Mode :=
  if m = 0 then some .cbc
  else if m = 1 then some .cfb
  else if m = 2 then some .ofb
  else if m = 3 then some .ctr
  else none

/-- The MODE field of a mode (R92). -/
def Mode.toField : Mode → BitVec 3
  | .cbc => 0
  | .cfb => 1
  | .ofb => 2
  | .ctr => 3

/-- The IV source that IVSRC selects (R93). -/
def IvSrc.ofField (b : BitVec 1) : IvSrc := if b = 0 then .rng else .reg

/-- The IVSRC field of an IV source (R93). -/
def IvSrc.toField : IvSrc → BitVec 1
  | .rng => 0
  | .reg => 1

/-- ENCRYPT with its two fields (R180, R201). -/
def encryptCommand (m : BitVec 3) (src : IvSrc) : Instr :=
  match Mode.ofField m, src with
  | some .cbc, .rng => .encryptCbcRng
  | some .cfb, .rng => .encryptCfbRng
  | some .ofb, .rng => .encryptOfbRng
  | some .ctr, .rng => .encryptCtrRng
  | some .cbc, .reg => .encryptCbcReg
  | some .cfb, .reg => .encryptCfbReg
  | some .ofb, .reg => .encryptOfbReg
  | some .ctr, .reg => .encryptCtrReg
  | none, src => .encryptNoMode m src

/-- DECRYPT with its MODE field (R181, R201). -/
def decryptCommand (m : BitVec 3) : Instr :=
  match Mode.ofField m with
  | some .cbc => .decryptCbc
  | some .cfb => .decryptCfb
  | some .ofb => .decryptOfb
  | some .ctr => .decryptCtr
  | none => .decryptNoMode m

/-- XFORM_FWD with its MODE field (R147, R201). -/
def xformFwdCommand (m : BitVec 3) : Instr :=
  match Mode.ofField m with
  | some .cbc => .xformFwdCbc
  | some .cfb => .xformFwdCfb
  | some .ofb => .xformFwdOfb
  | some .ctr => .xformFwdCtr
  | none => .xformFwdNoMode m

/-- XFORM_INV with its MODE field (R148, R201). -/
def xformInvCommand (m : BitVec 3) : Instr :=
  match Mode.ofField m with
  | some .cbc => .xformInvCbc
  | some .cfb => .xformInvCfb
  | some .ofb => .xformInvOfb
  | some .ctr => .xformInvCtr
  | none => .xformInvNoMode m

/-- A command that takes a mode and no IV source: IVSRC must be 0 (R93, R95). -/
def moded (w : Word) (i : Instr) : Except Illegal Instr :=
  if ivsrcField w = 0 then .ok i else .error .ivsrc

/-- A command that takes neither: IVSRC and MODE must be 0 (R92, R93, R95). -/
def modeless (w : Word) (i : Instr) : Except Illegal Instr :=
  if ivsrcField w = 0 then (if modeField w = 0 then .ok i else .error .mode) else .error .ivsrc

/-- The decoder (R91 to R97). It never fails to answer, and it gives no meaning to a reserved word. -/
def decode (w : Word) : Except Illegal Instr :=
  if reservedField w ≠ 0 then .error .reservedBits
  else if opField w = 1 then .ok (encryptCommand (modeField w) (IvSrc.ofField (ivsrcField w)))
  else if opField w = 2 then moded w (decryptCommand (modeField w))
  else if opField w = 3 then moded w (xformFwdCommand (modeField w))
  else if opField w = 4 then moded w (xformInvCommand (modeField w))
  else if opField w = 5 then modeless w .padData
  else if opField w = 6 then modeless w .unpadData
  else if opField w = 7 then modeless w .encodeContainer
  else if opField w = 8 then modeless w .decodeContainer
  else .error .opcode

/-- `w = OP | (MODE << 4) | (IVSRC << 7)` (R90). -/
def commandWord (op : BitVec 4) (mode : BitVec 3) (ivsrc : BitVec 1) : Word :=
  op.setWidth 32 ||| (mode.setWidth 32 <<< 4) ||| (ivsrc.setWidth 32 <<< 7)

/-- The word of an instruction, from the tables of R91 to R93. -/
def encode : Instr → Word
  | .encryptCbcRng => commandWord 1 (Mode.toField .cbc) (IvSrc.toField .rng)
  | .encryptCfbRng => commandWord 1 (Mode.toField .cfb) (IvSrc.toField .rng)
  | .encryptOfbRng => commandWord 1 (Mode.toField .ofb) (IvSrc.toField .rng)
  | .encryptCtrRng => commandWord 1 (Mode.toField .ctr) (IvSrc.toField .rng)
  | .encryptCbcReg => commandWord 1 (Mode.toField .cbc) (IvSrc.toField .reg)
  | .encryptCfbReg => commandWord 1 (Mode.toField .cfb) (IvSrc.toField .reg)
  | .encryptOfbReg => commandWord 1 (Mode.toField .ofb) (IvSrc.toField .reg)
  | .encryptCtrReg => commandWord 1 (Mode.toField .ctr) (IvSrc.toField .reg)
  | .decryptCbc => commandWord 2 (Mode.toField .cbc) 0
  | .decryptCfb => commandWord 2 (Mode.toField .cfb) 0
  | .decryptOfb => commandWord 2 (Mode.toField .ofb) 0
  | .decryptCtr => commandWord 2 (Mode.toField .ctr) 0
  | .xformFwdCbc => commandWord 3 (Mode.toField .cbc) 0
  | .xformFwdCfb => commandWord 3 (Mode.toField .cfb) 0
  | .xformFwdOfb => commandWord 3 (Mode.toField .ofb) 0
  | .xformFwdCtr => commandWord 3 (Mode.toField .ctr) 0
  | .xformInvCbc => commandWord 4 (Mode.toField .cbc) 0
  | .xformInvCfb => commandWord 4 (Mode.toField .cfb) 0
  | .xformInvOfb => commandWord 4 (Mode.toField .ofb) 0
  | .xformInvCtr => commandWord 4 (Mode.toField .ctr) 0
  | .padData => commandWord 5 0 0
  | .unpadData => commandWord 6 0 0
  | .encodeContainer => commandWord 7 0 0
  | .decodeContainer => commandWord 8 0 0
  | .encryptNoMode mode src => commandWord 1 mode src.toField
  | .decryptNoMode mode => commandWord 2 mode 0
  | .xformFwdNoMode mode => commandWord 3 mode 0
  | .xformInvNoMode mode => commandWord 4 mode 0

/-- The instruction the decoder reads from the one word of a table row (R98: every command is one 32-bit word; a
shorter row is filled with zeros above `nbits`). -/
def decodeTableWord (nbits w : Nat) : Option Instr :=
  match decode (BitVec.ofNat 32 (w % 2 ^ nbits)) with
  | .ok i => some i
  | .error _ => none

/-- `.m4` to `.m7`, the written form of a MODE that selects no mode (R104). -/
def noModeSuffix (m : BitVec 3) : String :=
  if m = 4 then ".m4" else if m = 5 then ".m5" else if m = 6 then ".m6" else ".m7"

/-- The written IV source (R104). -/
def IvSrc.written : IvSrc → String
  | .rng => " rng"
  | .reg => " reg"

/-- `MNEMONIC[.mode] [ivsrc]`, the written form of a command (R104). -/
def Instr.written : Instr → String
  | .encryptCbcRng => "ENCRYPT.cbc rng"
  | .encryptCfbRng => "ENCRYPT.cfb rng"
  | .encryptOfbRng => "ENCRYPT.ofb rng"
  | .encryptCtrRng => "ENCRYPT.ctr rng"
  | .encryptCbcReg => "ENCRYPT.cbc reg"
  | .encryptCfbReg => "ENCRYPT.cfb reg"
  | .encryptOfbReg => "ENCRYPT.ofb reg"
  | .encryptCtrReg => "ENCRYPT.ctr reg"
  | .decryptCbc => "DECRYPT.cbc"
  | .decryptCfb => "DECRYPT.cfb"
  | .decryptOfb => "DECRYPT.ofb"
  | .decryptCtr => "DECRYPT.ctr"
  | .xformFwdCbc => "XFORM_FWD.cbc"
  | .xformFwdCfb => "XFORM_FWD.cfb"
  | .xformFwdOfb => "XFORM_FWD.ofb"
  | .xformFwdCtr => "XFORM_FWD.ctr"
  | .xformInvCbc => "XFORM_INV.cbc"
  | .xformInvCfb => "XFORM_INV.cfb"
  | .xformInvOfb => "XFORM_INV.ofb"
  | .xformInvCtr => "XFORM_INV.ctr"
  | .padData => "PAD"
  | .unpadData => "UNPAD"
  | .encodeContainer => "ENCODE"
  | .decodeContainer => "DECODE"
  | .encryptNoMode mode src => "ENCRYPT" ++ noModeSuffix mode ++ src.written
  | .decryptNoMode mode => "DECRYPT" ++ noModeSuffix mode
  | .xformFwdNoMode mode => "XFORM_FWD" ++ noModeSuffix mode
  | .xformInvNoMode mode => "XFORM_INV" ++ noModeSuffix mode

end Sys2Proof
end

