-- ==== Sys2Proof/Machine/State.lean ====
section
/-! DEFINITION. The state of the machine as plain data (spec 10_state.md, 20_memory.md), the inputs of the outside
world, and the state right after a hardware reset (R48, R230). -/

namespace Sys2Proof.Machine

/-- The six errors of a command (60_exceptions.md R200). An error is no fault of this model: a failed command
completes and reports its code in STATUS (R210). -/
inductive ErrorKind where
  /-- Code 1 (R201). -/
  | unsupportedMode
  /-- Code 2 (R202). -/
  | invalidKeyOrIvLength
  /-- Code 3 (R203). -/
  | invalidPadding
  /-- Code 4 (R204). -/
  | malformedContainer
  /-- Code 5 (R205). -/
  | illegalCommand
  /-- Code 6 (R206). -/
  | capacityExceeded
  deriving DecidableEq, Repr

/-- Why the machine stops with a fault. There is no such reason: the port has no error response (R67), the engine has
no trap (R14, R210), and every command word has an effect (R97, R205). Safe: nothing is stopped that could run. -/
inductive Fault where
  deriving DecidableEq, Repr

/-- Why the machine refuses an instruction. -/
inductive Refusal where
  /-- Raised by an arm of `exec` whose instruction has no meaning yet. Safe. No arm raises it. -/
  | notModelled (mnemonic : String)
  deriving DecidableEq, Repr

/-- The STATUS register by its fields (R23). Its reserved bits read 0 and are not stored. -/
structure Status where
  /-- Bit [0]: a command is accepted and not completed. The Sequencer's phase (R41) is this bit. -/
  busy : Bool
  /-- Bit [1]: a command has completed since the last acceptance or ACK. -/
  done : Bool
  /-- Bit [2]: the last completed command failed. -/
  err : Bool
  /-- Bit [3]: OBUF[0..OUT_LEN) holds the output of the last command. -/
  outValid : Bool
  /-- Bit [4], sticky: a busy-filtered write was ignored. -/
  ignored : Bool
  /-- Bits [11:8]: the error code of the last completed command. -/
  errCode : BitVec 4
  /-- Bits [15:12]: the OP field of the last accepted word. -/
  lastOp : BitVec 4
  deriving DecidableEq, Repr

/-- The Sequencer's working state while a command runs (R41). No host access reads it and no later command does. -/
structure Work where
  /-- CHAIN: the previous ciphertext block (CBC, CFB) or keystream block (OFB). -/
  chain : Block
  /-- CTR: the counter register of 8·B bits. -/
  counter : BitVec 128
  /-- The block index i. -/
  index : Nat
  deriving DecidableEq, Repr

/-- The working state while no command runs: its content is discarded (R41, R43; D25). What stands in its place is zero
(DESIGN CHOICE, log entry 5). -/
def Work.discarded : Work where
  chain := Vector.replicate 16 0
  counter := 0
  index := 0

/-- The model's own counters of draws. A free value is an opaque constant of Config applied to one of them. -/
structure Draws where
  /-- Which unspecified content IBUF has (U1): advanced by a hardware reset. -/
  ibuf : Nat
  /-- Which unspecified content OBUF has (U1, U4): advanced by every event that makes OBUF bytes unspecified. -/
  obuf : Nat
  /-- How many unspecified words host reads have returned (U3, U9). -/
  read : Nat
  /-- How many blocks the random source has given (U5). -/
  rng : Nat
  deriving DecidableEq, Repr

/-- A byte memory: the bytes that hold a specified value, by byte index, strictly rising. -/
abbrev Memory := List Host.Cell

/-- What an unlisted byte index reads as: no specified value (R65, R68). A command or a host read that meets it
takes the byte's draw (Machine/Operands.lean). -/
def Memory.unlisted : Option Byte := none

/-- The canonical form: byte indices strictly rising, and no entry equal to what an unlisted index reads as. -/
abbrev Memory.wf (m : Memory) : Prop :=
  m.Pairwise (fun a b => a.1 < b.1) ∧ ∀ c ∈ m, some c.2 ≠ Memory.unlisted

/-- One input of the machine: what the outside world does next (R9, R72, R216). The list `State.events` is the order
in which accesses, completions and resets fall, and every order is the list of some state. -/
inductive Event where
  /-- The host writes the word to the address: `MemWrite` (R62). -/
  | hostWrite (addr : WordAddr) (data : Word)
  /-- The host reads the address: `MemRead` (R61). -/
  | hostRead (addr : WordAddr)
  /-- The Sequencer takes its completion step, where one is enabled (R101). -/
  | sequencer
  /-- The pin rst_n takes the level (R230): false asserts the reset, true ends it. -/
  | resetPin (level : Bool)
  deriving DecidableEq, Repr

/-- The machine. Registers and buffers first, then what the model adds: draws, the level of rst_n, the word of
the last host read, and the inputs to come. -/
structure State where
  /-- STATUS (R23). -/
  status : Status
  /-- CMDLATCH, which CMD reads return (R24, R40). -/
  cmdLatch : Word
  /-- KEYLEN[7:0] (R25). -/
  keyLen : Byte
  /-- IVLEN[7:0] (R26). -/
  ivLen : Byte
  /-- IN_LEN (R27). -/
  inLen : Word
  /-- OUT_LEN (R28). -/
  outLen : Word
  /-- IRQ_EN.DONE_IE (R33). -/
  doneIe : Bool
  /-- KEY[0..32) (R29). -/
  key : Key
  /-- IVR[0..16) (R30). -/
  iv : Block
  /-- The specified bytes of IBUF (R64, R68). -/
  ibuf : Memory
  /-- The specified bytes of OBUF (R65). -/
  obuf : Memory
  /-- CHAIN, CTR and the block index (R41). -/
  work : Work
  /-- The model's draw counters. -/
  draws : Draws
  /-- The level of the pin rst_n: false while the engine is held in reset (R230). -/
  rstN : Bool
  /-- The word on h_rdata from the last host read (R10). -/
  rdata : Word
  /-- The inputs to come, the next one first. -/
  events : List Event
  deriving DecidableEq, Repr

/-- STATUS after reset: every field 0 (R23, R48). -/
def Status.reset : Status where
  busy := false
  done := false
  err := false
  outValid := false
  ignored := false
  errCode := 0
  lastOp := 0

/-- The machine right after a hardware reset (R48, R230), with no input pending. The spec calls CHAIN, CTR and
the block index irrelevant then, and gives h_rdata no value: they are zero here (DESIGN CHOICE, log entries 5 and 7). -/
def State.reset : State where
  status := Status.reset
  cmdLatch := 0
  keyLen := 0
  ivLen := 0
  inLen := 0
  outLen := 0
  doneIe := false
  key := Vector.replicate 32 0
  iv := Vector.replicate 16 0
  ibuf := []
  obuf := []
  work := Work.discarded
  draws := { ibuf := 0, obuf := 0, read := 0, rng := 0 }
  rstN := true
  rdata := 0
  events := []

end Sys2Proof.Machine
end

