-- ==== Sys2Proof/Machine/Flags.lean ====
section
/-! DEFINITION. Every computation of a STATUS field and of irq: acceptance (R100), completion (R101, R210),
acknowledgement (R22, R212), a write ignored while busy (R35), the word that a read of STATUS returns (R23). -/

namespace Sys2Proof.Machine

/-- `code(e)`, the table of R200. -/
def ErrorKind.code : ErrorKind → BitVec 4
  | .unsupportedMode => 1
  | .invalidKeyOrIvLength => 2
  | .invalidPadding => 3
  | .malformedContainer => 4
  | .illegalCommand => 5
  | .capacityExceeded => 6

/-- The STATUS writes of acceptance (R100), given the OP field of the accepted word. -/
def Status.accept (op : BitVec 4) (f : Status) : Status :=
  { f with lastOp := op, busy := true, done := false, err := false, errCode := 0, outValid := false }

/-- The STATUS writes of a successful completion (R101). -/
def Status.succeed (f : Status) : Status :=
  { f with outValid := true, busy := false, done := true }

/-- The STATUS writes of a completion with an error (R101, R210). -/
def Status.fail (e : ErrorKind) (f : Status) : Status :=
  { f with errCode := e.code, err := true, busy := false, done := true }

/-- CTRL.ACK (R22, R212). -/
def Status.ack (f : Status) : Status := { f with done := false }

/-- CTRL.CLR_IGN (R22). -/
def Status.clearIgnored (f : Status) : Status := { f with ignored := false }

/-- A busy-filtered write was dropped (R35). -/
def Status.markIgnored (f : Status) : Status := { f with ignored := true }

/-- One bit as the word that has it at bit 0. -/
def bitWord (b : Bool) : Word := if b then 1 else 0

/-- The word a read of STATUS returns (R23). The reserved bits [7:5] and [31:16] read 0. -/
def Status.toWord (f : Status) : Word :=
  bitWord f.busy ||| bitWord f.done <<< 1 ||| bitWord f.err <<< 2 ||| bitWord f.outValid <<< 3
    ||| bitWord f.ignored <<< 4 ||| f.errCode.setWidth 32 <<< 8 ||| f.lastOp.setWidth 32 <<< 12

/-- The interrupt output: irq = STATUS.DONE ∧ IRQ_EN.DONE_IE at every moment (R214). -/
def State.irq (s : State) : Bool := s.status.done && s.doneIe

end Sys2Proof.Machine
end

