-- ==== Sys2Proof/Machine/Ops.lean ====
section
/-! DEFINITION. The shared operations: byte lanes and byte strings, byte memories, the two events of a command
(acceptance R100, completion R101), completion with an error as the engine's one exception mechanism (R210) with its
acknowledgement (R212) beside it, and the resets (R230, R231). -/

namespace Sys2Proof.Machine

/-! ### Byte lanes and byte strings (R12, R13, R63) -/

/-- Lane j of a word: bits [8j+7:8j] (R63). -/
def lane (w : Word) (j : Nat) : Byte := w.extractLsb' (8 * j) 8

/-- `le32(w)`: the four bytes of a word in lane order (R13). -/
def le32 (w : Word) : Bytes := [lane w 0, lane w 1, lane w 2, lane w 3]

/-- The word whose lanes are the bytes `f 0` to `f 3`, the inverse of `le32` (R105's `word`). -/
def laneWord (f : Nat → Byte) : Word :=
  (f 0).setWidth 32 ||| (f 1).setWidth 32 <<< 8 ||| (f 2).setWidth 32 <<< 16 ||| (f 3).setWidth 32 <<< 24

/-- `be(x)`: a byte string read as an unsigned big-endian integer (R13). -/
def be (x : Bytes) : Nat := x.foldl (fun acc b => 256 * acc + b.toNat) 0

/-- `to_be_16` of a number kept mod 2^128 (R13, R140): byte 0 is the most significant. -/
def toBe16 (c : BitVec 128) : Block := Vector.ofFn fun j => c.extractLsb' (8 * (15 - j.val)) 8

/-- The block with the first 16 bytes of a string. Zero bytes fill up a shorter one, and no rule reads them. -/
def blockOf (x : Bytes) : Block := Vector.ofFn fun j => x.getD j.val 0

/-- `x ⊕ y` on two blocks (R12). -/
def xorBlock (x y : Block) : Block := Vector.ofFn fun j => x[j] ^^^ y[j]

/-- `x ⊕ y` on two strings of equal length (R12). -/
def xorBytes (x y : Bytes) : Bytes := List.zipWith (· ^^^ ·) x y

/-- Four bytes of a fixed-length string replaced by a word's lanes: `v[4k..4k+4) <- le32(w)` (R29, R30). -/
def setLanes {n : Nat} (v : Vector Byte n) (k : Nat) (w : Word) : Vector Byte n :=
  Vector.ofFn fun j => if j.val / 4 = k then lane w (j.val % 4) else v[j]

/-- A block on the primitive and random ports: byte 0 at bits [7:0], Σ X[j]·2^(8j) (R10, R71). -/
def blockToPort (x : Block) : BitVec 128 :=
  BitVec.ofNat 128 (x.toList.foldr (fun b acc => b.toNat + 256 * acc) 0)

/-- The block that a port value holds (R10, R71). -/
def blockOfPort (p : BitVec 128) : Block := Vector.ofFn fun j => p.extractLsb' (8 * j.val) 8

/-! ### Byte memories -/

/-- The specified byte at an index, if it has one. -/
def Memory.read? : Memory → Nat → Option Byte
  | [], _ => Memory.unlisted
  | (k, b) :: rest, n => if k = n then some b else Memory.read? rest n

/-- Write one byte, keeping the indices rising. -/
def Memory.write : Memory → Nat → Byte → Memory
  | [], n, b => [(n, b)]
  | (k, c) :: rest, n, b =>
    if n < k then (n, b) :: (k, c) :: rest
    else if n = k then (n, b) :: rest
    else (k, c) :: Memory.write rest n b

/-- Write the word's lanes at word index m: `[4m..4m+4) <- le32(w)`, all four lanes together (R62, R64). -/
def Memory.writeWord (mem : Memory) (m : Nat) (w : Word) : Memory :=
  (((mem.write (4 * m) (lane w 0)).write (4 * m + 1) (lane w 1)).write (4 * m + 2) (lane w 2)).write
    (4 * m + 3) (lane w 3)

/-- The memory that holds the string from index n on and nothing else. -/
def Memory.ofBytes : Nat → Bytes → Memory
  | _, [] => []
  | n, b :: rest => (n, b) :: Memory.ofBytes (n + 1) rest

/-! ### Acceptance and completion -/

/-- What a command that succeeds gives: `Ok(out, ivw)` (R14, R101), with whether it took a draw of the random
source. -/
structure Output where
  /-- The output bytes. -/
  out : Bytes
  /-- The IV write-back, DECODE's only. -/
  ivOut : Option Block
  /-- Whether the random source was drawn from (R182). -/
  drew : Bool
  deriving DecidableEq, Repr

/-- Every OBUF byte becomes unspecified, with a new draw (R65, U1, U4). -/
def State.forgetObuf (s : State) : State :=
  { s with obuf := [], draws := { s.draws with obuf := s.draws.obuf + 1 } }

/-- Acceptance (R100). The snapshot of the operands is the live registers themselves (R40), and OBUF becomes
unspecified (R242, U4). -/
def State.accept (w : Word) (s : State) : State :=
  { s.forgetObuf with cmdLatch := w, status := s.status.accept (opField w), outLen := 0 }

/-- The command word the Sequencer runs (R101): CMDLATCH. -/
def State.fetchCommand (s : State) : Word := s.cmdLatch

/-- Completion with a result (R101, case Ok). OBUF bytes from len(out) on are unspecified, with a new draw (U4), and the
working state is discarded, so that no copy of a drawn IV is kept outside OBUF (R41, R43). -/
def State.succeed (o : Output) (s : State) : State :=
  { s with
    obuf := Memory.ofBytes 0 o.out
    outLen := BitVec.ofNat 32 o.out.length
    iv := o.ivOut.getD s.iv
    ivLen := if o.ivOut.isSome then 16 else s.ivLen
    status := s.status.succeed
    work := Work.discarded
    draws := { s.draws with
      obuf := s.draws.obuf + 1
      rng := if o.drew then s.draws.rng + 1 else s.draws.rng } }

/-- Completion with an error (R101, case Err), the engine's only exception mechanism (R210): it writes ERRCODE, ERR,
BUSY and DONE, makes OBUF unspecified and discards the working state (R41). It saves nothing, changes no mode and
transfers no control. -/
def State.fail (e : ErrorKind) (s : State) : State :=
  { s.forgetObuf with status := s.status.fail e, work := Work.discarded }

/-- The end of handling a completion: CTRL.ACK clears DONE, and irq with it (R212). Nothing is restored, because
nothing was saved. -/
def State.acknowledge (s : State) : State := { s with status := s.status.ack }

/-! ### Reset -/

/-- Hardware reset (R230, R48): every piece of state has its reset value, both buffers are unspecified with new
draws, and a running command is abandoned (R232). The model's own counters go on, and so does what is outside
the engine: the pin, the host's last read and the inputs to come. -/
def State.hardReset (s : State) : State :=
  { State.reset with
    draws := { s.draws with ibuf := s.draws.ibuf + 1, obuf := s.draws.obuf + 1 }
    rstN := s.rstN
    rdata := s.rdata
    events := s.events }

/-- Soft reset (R231, R48): as the hardware reset, but IBUF keeps its bytes and its draw. -/
def State.softReset (s : State) : State :=
  { State.reset with
    ibuf := s.ibuf
    draws := { s.draws with obuf := s.draws.obuf + 1 }
    rstN := s.rstN
    rdata := s.rdata
    events := s.events }

/-- The pin rst_n takes a level (R230). The engine is held in reset while it is 0, and has its reset values when it
returns to 1. A pin that stays at 1 does nothing. -/
def State.setResetPin (level : Bool) (s : State) : State :=
  if level && s.rstN then s else { s.hardReset with rstN := level }

end Sys2Proof.Machine
end

