-- ==== Sys2Proof/Machine/Operands.lean ====
section
/-! DEFINITION. What a command reads (R40, R99): K, KL, V, VL, L and X from the registers and IBUF, one byte of each
buffer, and the checks on the registers with their one order (R207). -/

namespace Sys2Proof.Machine

/-- L = IN_LEN (R27, R40). -/
def State.inputLen (s : State) : Nat := s.inLen.toNat

/-- IBUF[n]: the byte the host wrote, or the draw of a byte that holds no specified value (R68, U2). -/
def State.ibufByte (s : State) (n : Nat) : Byte :=
  (s.ibuf.read? n).getD (Config.freeIbufByte s.draws.ibuf n)

/-- OBUF[n]: the output byte, or the draw of a byte that holds no specified value (R65, U4). -/
def State.obufByte (s : State) (n : Nat) : Byte :=
  (s.obuf.read? n).getD (Config.freeObufByte s.draws.obuf n)

/-- X = IBUF[0..L) (R40). The checks have established L ≤ IBUF_SIZE wherever a command uses it (R102). -/
def State.input (s : State) : Bytes := (List.range s.inputLen).map s.ibufByte

/-- The next draw of the random source (R8, R182). -/
def State.rngBlock (s : State) : Block := Config.rngDraw s.draws.rng

/-- Which of the checks 3 to 7 of R207 apply to a command. Check 5 applies to all. -/
structure Needs where
  /-- Check 3: the command reads the key. -/
  key : Bool
  /-- Check 4: the command reads IVR. -/
  iv : Bool
  /-- Check 6: the command parses a container. -/
  container : Bool
  /-- Check 7: the command gives IBUF data to a CBC transform without padding it. -/
  aligned : Bool
  deriving DecidableEq, Repr

/-- The checks 3 to 7 of R207 in their order: the first that applies. Check 1 is the decoder's, check 2 is the four
unsupported-mode commands' own effect, and check 8 is inside UNPAD and DECRYPT.cbc. -/
def State.precheck (needs : Needs) (s : State) : Option ErrorKind :=
  if needs.key = true ∧ s.keyLen ≠ 32 then some .invalidKeyOrIvLength
  else if needs.iv = true ∧ s.ivLen ≠ 16 then some .invalidKeyOrIvLength
  else if Config.ibufSize < s.inputLen then some .capacityExceeded
  else if needs.container = true ∧ s.inputLen < 16 then some .malformedContainer
  else if needs.aligned = true ∧ s.inputLen % 16 ≠ 0 then some .invalidPadding
  else none

/-- A whole command (R101, R102): the checks, then the operation's result, then completion. -/
def State.finish (needs : Needs) (result : Except ErrorKind Output) (s : State) : State :=
  match s.precheck needs with
  | some e => s.fail e
  | none =>
    match result with
    | .ok o => s.succeed o
    | .error e => s.fail e

end Sys2Proof.Machine
end

