-- ==== Sys2Proof/Machine/Padding.lean ====
section
/-! DEFINITION. The Padding Module (40_padding.md): `pad` and `unpad`, and the commands PAD and UNPAD. -/

namespace Sys2Proof.Machine

/-- The pad count N = B − (len(x) mod B), 1 to 16 (R110). -/
def padCount (n : Nat) : Nat := 16 - n % 16

/-- `pad(x)`: N bytes of value N appended (R110). -/
def pad (x : Bytes) : Bytes :=
  x ++ List.replicate (padCount x.length) (BitVec.ofNat 8 (padCount x.length))

/-- `unpad(y)` with its checks (a) to (d) (R112). -/
def unpad (y : Bytes) : Except ErrorKind Bytes :=
  if y.length % 16 ≠ 0 then .error .invalidPadding
  else if y.length = 0 then .error .invalidPadding
  else
    let last := y.getLastD 0
    let n := last.toNat
    if n < 1 ∨ 16 < n then .error .invalidPadding
    else if (y.drop (y.length - n)).any (fun b => b != last) then .error .invalidPadding
    else .ok (y.take (y.length - n))

/-- What PAD and UNPAD need: neither key nor IV, no container, no alignment check before the data is read. -/
def paddingNeeds : Needs := { key := false, iv := false, container := false, aligned := false }

/-- An output with no IV write-back and no draw. -/
def plainOutput (out : Bytes) : Output := { out := out, ivOut := none, drew := false }

/-- PAD (R115). -/
def execPadData (s : State) : Host.Outcome State Fault Refusal :=
  .next (s.finish paddingNeeds (.ok (plainOutput (pad s.input))))

/-- UNPAD (R116). -/
def execUnpadData (s : State) : Host.Outcome State Fault Refusal :=
  .next (s.finish paddingNeeds ((unpad s.input).map plainOutput))

end Sys2Proof.Machine
end

