-- ==== Sys2Proof/Machine/Container.lean ====
section
/-! DEFINITION. The Container Codec (42_container.md): the format IV ‖ ciphertext, and the commands ENCODE and
DECODE. -/

namespace Sys2Proof.Machine

/-- `encode(iv, ct) = iv ‖ ct` (R170, R172). -/
def containerOf (iv : Block) (ct : Bytes) : Bytes := iv.toList ++ ct

/-- `decode(c)`: the IV and the ciphertext of a container (R171). -/
def splitContainer (c : Bytes) : Except ErrorKind (Block × Bytes) :=
  if c.length < 16 then .error .malformedContainer
  else .ok (blockOf (c.take 16), c.drop 16)

/-- ENCODE reads IVR and no key (R173). -/
def encodeNeeds : Needs := { key := false, iv := true, container := false, aligned := false }

/-- DECODE parses a container and reads neither key nor IVR (R174). -/
def decodeNeeds : Needs := { key := false, iv := false, container := true, aligned := false }

/-- ENCODE (R173). -/
def execEncodeContainer (s : State) : Host.Outcome State Fault Refusal :=
  .next (s.finish encodeNeeds (.ok (plainOutput (containerOf s.iv s.input))))

/-- DECODE (R174): the IV goes to IVR, the ciphertext to OBUF. -/
def execDecodeContainer (s : State) : Host.Outcome State Fault Refusal :=
  .next (s.finish decodeNeeds ((splitContainer s.input).map fun c =>
    { out := c.2, ivOut := some c.1, drew := false }))

end Sys2Proof.Machine
end

