-- ==== Sys2Proof/Machine/Modes.lean ====
section
/-! DEFINITION. The Mode Engine (41_modes.md): CBC, CFB, OFB and CTR as one step for one block over the working state
of R41, run over the blocks of the data, and the commands XFORM_FWD and XFORM_INV. Every function takes the primitive as
an argument and the commands give it the instance's own. -/

namespace Sys2Proof.Machine

/-! ### Blocks (R15, R130, R131) -/

/-- `n(x) = ceil(len(x)/B)`. -/
def blockCount (x : Bytes) : Nat := (x.length + 15) / 16

/-- `blk(x, i) = x[i·B .. min((i+1)·B, len(x)))`. -/
def blk (x : Bytes) (i : Nat) : Bytes := (x.drop (16 * i)).take 16

/-- The blocks of a byte string, the last one perhaps shorter. -/
def blocks (x : Bytes) : List Bytes := (List.range (blockCount x)).map (blk x)

/-- `xt(d, s) = d ⊕ take(len(d), s)` (R131). -/
def xorTruncated (d : Bytes) (s : Block) : Bytes := xorBytes d (s.toList.take d.length)

/-! ### One block of each mode -/

/-- The working state at the start of a transform: the chain and the counter from the IV that the command itself
supplies (R140, R149), and block 0. -/
def Work.start (iv : Block) : Work :=
  { chain := iv, counter := BitVec.ofNat 128 (be iv.toList), index := 0 }

/-- CBC forward: c = Enc(K, d ⊕ prev) (R133). -/
def cbcFwdBlock (p : BlockPrimitive) (k : Key) (w : Work) (d : Bytes) : Bytes × Work :=
  let c := p.enc k (xorBlock (blockOf d) w.chain)
  (c.toList, { w with chain := c, index := w.index + 1 })

/-- CBC inverse: p = Dec(K, d) ⊕ prev (R134). -/
def cbcInvBlock (p : BlockPrimitive) (k : Key) (w : Work) (d : Bytes) : Bytes × Work :=
  ((xorBlock (p.dec k (blockOf d)) w.chain).toList, { w with chain := blockOf d, index := w.index + 1 })

/-- CFB forward: the feedback is the ciphertext block just made (R136). -/
def cfbFwdBlock (p : BlockPrimitive) (k : Key) (w : Work) (d : Bytes) : Bytes × Work :=
  let c := xorTruncated d (p.enc k w.chain)
  (c, { w with chain := blockOf c, index := w.index + 1 })

/-- CFB inverse: the feedback is the ciphertext block read (R137). -/
def cfbInvBlock (p : BlockPrimitive) (k : Key) (w : Work) (d : Bytes) : Bytes × Work :=
  (xorTruncated d (p.enc k w.chain), { w with chain := blockOf d, index := w.index + 1 })

/-- OFB: the keystream is the iterated encipherment of the IV (R138). -/
def ofbBlock (p : BlockPrimitive) (k : Key) (w : Work) (d : Bytes) : Bytes × Work :=
  let s := p.enc k w.chain
  (xorTruncated d s, { w with chain := s, index := w.index + 1 })

/-- CTR: the keystream is the encipherment of the counter, which counts up mod 2^128 (R140, R141). -/
def ctrBlock (p : BlockPrimitive) (k : Key) (w : Work) (d : Bytes) : Bytes × Work :=
  (xorTruncated d (p.enc k (toBe16 w.counter)), { w with counter := w.counter + 1, index := w.index + 1 })

/-! ### The transforms -/

/-- Run a block step over the blocks in their order, joining the outputs. -/
def runBlocks (f : Work → Bytes → Bytes × Work) : Work → List Bytes → Bytes × Work
  | w, [] => ([], w)
  | w, d :: rest =>
    let r := f w d
    let t := runBlocks f r.2 rest
    (r.1 ++ t.1, t.2)

/-- The forward block step of each mode (R143). -/
def fwdBlock (p : BlockPrimitive) (k : Key) : Mode → Work → Bytes → Bytes × Work
  | .cbc => cbcFwdBlock p k
  | .cfb => cfbFwdBlock p k
  | .ofb => ofbBlock p k
  | .ctr => ctrBlock p k

/-- The inverse block step of each mode (R143). OFB and CTR have one function for both (R139, R142). -/
def invBlock (p : BlockPrimitive) (k : Key) : Mode → Work → Bytes → Bytes × Work
  | .cbc => cbcInvBlock p k
  | .cfb => cfbInvBlock p k
  | .ofb => ofbBlock p k
  | .ctr => ctrBlock p k

/-- The forward transform with the working state it ends with. -/
def runFwd (p : BlockPrimitive) (m : Mode) (k : Key) (iv : Block) (x : Bytes) : Bytes × Work :=
  runBlocks (fwdBlock p k m) (Work.start iv) (blocks x)

/-- The inverse transform with the working state it ends with. -/
def runInv (p : BlockPrimitive) (m : Mode) (k : Key) (iv : Block) (x : Bytes) : Bytes × Work :=
  runBlocks (invBlock p k m) (Work.start iv) (blocks x)

/-- `Fwd(m, K, V, X)` (R143). -/
def fwd (p : BlockPrimitive) (m : Mode) (k : Key) (iv : Block) (x : Bytes) : Bytes := (runFwd p m k iv x).1

/-- `Inv(m, K, V, X)` (R143). -/
def inv (p : BlockPrimitive) (m : Mode) (k : Key) (iv : Block) (x : Bytes) : Bytes := (runInv p m k iv x).1

/-- `ctrblk(V, i) = to_be_16((be(V) + i) mod 2^128)` (R140). -/
def ctrblk (v : Block) (i : Nat) : Block := toBe16 (BitVec.ofNat 128 (be v.toList + i))

/-! ### The commands XFORM_FWD and XFORM_INV -/

/-- Only CBC needs whole blocks (R135). -/
def isCbc : Mode → Bool
  | .cbc => true
  | .cfb | .ofb | .ctr => false

/-- What XFORM_FWD and XFORM_INV need: the key, IVR, and whole blocks for CBC (R147, R148). -/
def xformNeeds (m : Mode) : Needs := { key := true, iv := true, container := false, aligned := isCbc m }

/-- XFORM_FWD of a mode (R147). -/
def State.xformFwd (m : Mode) (s : State) : State :=
  s.finish (xformNeeds m) (.ok (plainOutput (fwd Config.primitive m s.key s.iv s.input)))

/-- XFORM_INV of a mode (R148). -/
def State.xformInv (m : Mode) (s : State) : State :=
  s.finish (xformNeeds m) (.ok (plainOutput (inv Config.primitive m s.key s.iv s.input)))

/-- XFORM_FWD.cbc (R147). -/
def execXformFwdCbc (s : State) : Host.Outcome State Fault Refusal := .next (s.xformFwd .cbc)

/-- XFORM_FWD.cfb (R147). -/
def execXformFwdCfb (s : State) : Host.Outcome State Fault Refusal := .next (s.xformFwd .cfb)

/-- XFORM_FWD.ofb (R147). -/
def execXformFwdOfb (s : State) : Host.Outcome State Fault Refusal := .next (s.xformFwd .ofb)

/-- XFORM_FWD.ctr (R147). -/
def execXformFwdCtr (s : State) : Host.Outcome State Fault Refusal := .next (s.xformFwd .ctr)

/-- XFORM_INV.cbc (R148). -/
def execXformInvCbc (s : State) : Host.Outcome State Fault Refusal := .next (s.xformInv .cbc)

/-- XFORM_INV.cfb (R148). -/
def execXformInvCfb (s : State) : Host.Outcome State Fault Refusal := .next (s.xformInv .cfb)

/-- XFORM_INV.ofb (R148). -/
def execXformInvOfb (s : State) : Host.Outcome State Fault Refusal := .next (s.xformInv .ofb)

/-- XFORM_INV.ctr (R148). -/
def execXformInvCtr (s : State) : Host.Outcome State Fault Refusal := .next (s.xformInv .ctr)

/-- XFORM_FWD with MODE 4 to 7: check 2 of R207 is its whole effect (R201). It reads no register. -/
def execXformFwdNoMode (_mode : BitVec 3) (s : State) : Host.Outcome State Fault Refusal :=
  .next (s.fail .unsupportedMode)

/-- XFORM_INV with MODE 4 to 7 (R201). -/
def execXformInvNoMode (_mode : BitVec 3) (s : State) : Host.Outcome State Fault Refusal :=
  .next (s.fail .unsupportedMode)

end Sys2Proof.Machine
end

