-- ==== Sys2Proof/Machine/Pipeline.lean ====
section
/-! DEFINITION. The pipeline (43_pipeline.md): ENCRYPT pads (CBC), transforms and prepends the IV; DECRYPT splits,
inverts and unpads (CBC). -/

namespace Sys2Proof.Machine

/-- The IV of ENCRYPT: the draw, or IVR (R182). -/
def State.encryptIv (src : IvSrc) (s : State) : Block :=
  match src with
  | .rng => s.rngBlock
  | .reg => s.iv

/-- What ENCRYPT gives its transform: CBC pads, and no other mode does (R114, R180). -/
def encryptInput (m : Mode) (x : Bytes) : Bytes := if isCbc m then pad x else x

/-- Whether IVSRC selects the IV registers (R93). -/
def isReg : IvSrc → Bool
  | .rng => false
  | .reg => true

/-- What ENCRYPT needs: the key, and IVR where IVSRC = 1 (R180). -/
def encryptNeeds (src : IvSrc) : Needs := { key := true, iv := isReg src, container := false, aligned := false }

/-- The result of ENCRYPT (R180): the container, with one draw taken where IVSRC = 0. -/
def encryptOutput (p : BlockPrimitive) (m : Mode) (src : IvSrc) (k : Key) (iv : Block) (x : Bytes) : Output :=
  { out := containerOf iv (fwd p m k iv (encryptInput m x)), ivOut := none, drew := !isReg src }

/-- ENCRYPT of a mode and an IV source (R180). -/
def State.encrypt (m : Mode) (src : IvSrc) (s : State) : State :=
  s.finish (encryptNeeds src) (.ok (encryptOutput Config.primitive m src s.key (s.encryptIv src) s.input))

/-- What DECRYPT needs: the key, a container, and for CBC whole ciphertext blocks (R181). Since the IV has 16 bytes,
the ciphertext part is aligned exactly when IN_LEN is (R207, check 7). -/
def decryptNeeds (m : Mode) : Needs := { key := true, iv := false, container := true, aligned := isCbc m }

/-- The end of DECRYPT: CBC unpads, and no other mode does (R114, R181). -/
def decryptFinish (m : Mode) (pt : Bytes) : Except ErrorKind Bytes := if isCbc m then unpad pt else .ok pt

/-- The result of DECRYPT (R181). -/
def decryptOutput (p : BlockPrimitive) (m : Mode) (k : Key) (x : Bytes) : Except ErrorKind Output :=
  match splitContainer x with
  | .error e => .error e
  | .ok (iv, ct) => (decryptFinish m (inv p m k iv ct)).map plainOutput

/-- DECRYPT of a mode (R181). -/
def State.decrypt (m : Mode) (s : State) : State :=
  s.finish (decryptNeeds m) (decryptOutput Config.primitive m s.key s.input)

/-- ENCRYPT.cbc rng (R180). -/
def execEncryptCbcRng (s : State) : Host.Outcome State Fault Refusal := .next (s.encrypt .cbc .rng)

/-- ENCRYPT.cfb rng (R180). -/
def execEncryptCfbRng (s : State) : Host.Outcome State Fault Refusal := .next (s.encrypt .cfb .rng)

/-- ENCRYPT.ofb rng (R180). -/
def execEncryptOfbRng (s : State) : Host.Outcome State Fault Refusal := .next (s.encrypt .ofb .rng)

/-- ENCRYPT.ctr rng (R180). -/
def execEncryptCtrRng (s : State) : Host.Outcome State Fault Refusal := .next (s.encrypt .ctr .rng)

/-- ENCRYPT.cbc reg (R180). -/
def execEncryptCbcReg (s : State) : Host.Outcome State Fault Refusal := .next (s.encrypt .cbc .reg)

/-- ENCRYPT.cfb reg (R180). -/
def execEncryptCfbReg (s : State) : Host.Outcome State Fault Refusal := .next (s.encrypt .cfb .reg)

/-- ENCRYPT.ofb reg (R180). -/
def execEncryptOfbReg (s : State) : Host.Outcome State Fault Refusal := .next (s.encrypt .ofb .reg)

/-- ENCRYPT.ctr reg (R180). -/
def execEncryptCtrReg (s : State) : Host.Outcome State Fault Refusal := .next (s.encrypt .ctr .reg)

/-- DECRYPT.cbc (R181). -/
def execDecryptCbc (s : State) : Host.Outcome State Fault Refusal := .next (s.decrypt .cbc)

/-- DECRYPT.cfb (R181). -/
def execDecryptCfb (s : State) : Host.Outcome State Fault Refusal := .next (s.decrypt .cfb)

/-- DECRYPT.ofb (R181). -/
def execDecryptOfb (s : State) : Host.Outcome State Fault Refusal := .next (s.decrypt .ofb)

/-- DECRYPT.ctr (R181). -/
def execDecryptCtr (s : State) : Host.Outcome State Fault Refusal := .next (s.decrypt .ctr)

/-- ENCRYPT with MODE 4 to 7: check 2 of R207 is its whole effect (R201). No draw is taken (R182). -/
def execEncryptNoMode (_mode : BitVec 3) (_src : IvSrc) (s : State) : Host.Outcome State Fault Refusal :=
  .next (s.fail .unsupportedMode)

/-- DECRYPT with MODE 4 to 7 (R201). -/
def execDecryptNoMode (_mode : BitVec 3) (s : State) : Host.Outcome State Fault Refusal :=
  .next (s.fail .unsupportedMode)

end Sys2Proof.Machine
end

