-- ==== Sys2Proof/Machine/Dispatch.lean ====
section
/-! DEFINITION. One arm for each constructor of `Instr`: the completion of each command (30_encoding.md R102). -/

namespace Sys2Proof.Machine

def exec (i : Instr) (s : State) : Host.Outcome State Fault Refusal :=
  match i with
  | .encryptCbcRng => Sys2Proof.Machine.execEncryptCbcRng s
  | .encryptCfbRng => Sys2Proof.Machine.execEncryptCfbRng s
  | .encryptOfbRng => Sys2Proof.Machine.execEncryptOfbRng s
  | .encryptCtrRng => Sys2Proof.Machine.execEncryptCtrRng s
  | .encryptCbcReg => Sys2Proof.Machine.execEncryptCbcReg s
  | .encryptCfbReg => Sys2Proof.Machine.execEncryptCfbReg s
  | .encryptOfbReg => Sys2Proof.Machine.execEncryptOfbReg s
  | .encryptCtrReg => Sys2Proof.Machine.execEncryptCtrReg s
  | .decryptCbc => Sys2Proof.Machine.execDecryptCbc s
  | .decryptCfb => Sys2Proof.Machine.execDecryptCfb s
  | .decryptOfb => Sys2Proof.Machine.execDecryptOfb s
  | .decryptCtr => Sys2Proof.Machine.execDecryptCtr s
  | .xformFwdCbc => Sys2Proof.Machine.execXformFwdCbc s
  | .xformFwdCfb => Sys2Proof.Machine.execXformFwdCfb s
  | .xformFwdOfb => Sys2Proof.Machine.execXformFwdOfb s
  | .xformFwdCtr => Sys2Proof.Machine.execXformFwdCtr s
  | .xformInvCbc => Sys2Proof.Machine.execXformInvCbc s
  | .xformInvCfb => Sys2Proof.Machine.execXformInvCfb s
  | .xformInvOfb => Sys2Proof.Machine.execXformInvOfb s
  | .xformInvCtr => Sys2Proof.Machine.execXformInvCtr s
  | .padData => Sys2Proof.Machine.execPadData s
  | .unpadData => Sys2Proof.Machine.execUnpadData s
  | .encodeContainer => Sys2Proof.Machine.execEncodeContainer s
  | .decodeContainer => Sys2Proof.Machine.execDecodeContainer s
  | .encryptNoMode mode src => Sys2Proof.Machine.execEncryptNoMode mode src s
  | .decryptNoMode mode => Sys2Proof.Machine.execDecryptNoMode mode s
  | .xformFwdNoMode mode => Sys2Proof.Machine.execXformFwdNoMode mode s
  | .xformInvNoMode mode => Sys2Proof.Machine.execXformInvNoMode mode s

end Sys2Proof.Machine
end

