-- ==== Sys2Proof/Machine/HostPort.lean ====
section
/-! DEFINITION. The host port (10_state.md section 1, 20_memory.md): the address map, host writes with the busy filter
and the actions of CMD and CTRL, host reads, and host accesses while the engine is held in reset. -/

namespace Sys2Proof.Machine

/-- What a word address reaches (R20, R66). -/
inductive Target where
  | id | ctrl | status | cmd | keyLen | ivLen | inLen | outLen | irqEn | ibufCap | obufCap
  /-- KEYk (R29). -/
  | key (k : Nat)
  /-- IVk (R30). -/
  | iv (k : Nat)
  /-- IBUF word m (R64). -/
  | ibuf (m : Nat)
  /-- OBUF word m (R65). -/
  | obuf (m : Nat)
  /-- Reserved or unbacked (R34, R67). -/
  | unbacked
  deriving DecidableEq, Repr

/-- The register map: byte offset and register, row by row as R20 has it. -/
def registerMap : List (Nat × Target) :=
  [(0x000, .id), (0x004, .ctrl), (0x008, .status), (0x00C, .cmd), (0x010, .keyLen), (0x014, .ivLen), (0x018, .inLen),
   (0x01C, .outLen), (0x020, .irqEn), (0x024, .ibufCap), (0x028, .obufCap)] ++
  [(0x040, .key 0), (0x044, .key 1), (0x048, .key 2), (0x04C, .key 3), (0x050, .key 4), (0x054, .key 5),
   (0x058, .key 6), (0x05C, .key 7), (0x060, .iv 0), (0x064, .iv 1), (0x068, .iv 2), (0x06C, .iv 3)]

/-- The byte offset of a word address in the window (R60). -/
def byteOffset (a : WordAddr) : Nat := 4 * a.toNat

/-- The word address of a byte offset. -/
def wordAddr (off : Nat) : WordAddr := BitVec.ofNat 20 (off / 4)

/-- The address map (R66). -/
def decodeAddr (a : WordAddr) : Target :=
  if byteOffset a < 0x100 then (registerMap.lookup (byteOffset a)).getD .unbacked
  else if byteOffset a < 0x100000 then .unbacked
  else if byteOffset a < 0x200000 then
    if byteOffset a - 0x100000 < Config.ibufSize then .ibuf (a.toNat - 0x40000) else .unbacked
  else if byteOffset a < 0x300000 then
    if byteOffset a - 0x200000 < Config.obufSize then .obuf (a.toNat - 0x80000) else .unbacked
  else .unbacked

/-- The busy-filtered targets (R35). -/
def Target.busyFiltered : Target → Bool
  | .cmd | .keyLen | .ivLen | .inLen | .key _ | .iv _ | .ibuf _ => true
  | .id | .ctrl | .status | .outLen | .irqEn | .ibufCap | .obufCap | .obuf _ | .unbacked => false

/-- A write to CTRL (R22): SRST overrides the others, and ACK and CLR_IGN both act. -/
def State.writeCtrl (w : Word) (s : State) : State :=
  if w.getLsbD 0 then s.softReset
  else
    let acked := if w.getLsbD 1 then s.acknowledge else s
    if w.getLsbD 2 then { acked with status := acked.status.clearIgnored } else acked

/-- A write that the busy filter lets through, by its target's access type (R22 to R34, R62, R64, R65, R67). -/
def State.writeTarget (t : Target) (w : Word) (s : State) : State :=
  match t with
  | .ctrl => s.writeCtrl w
  | .cmd => s.accept w
  | .keyLen => { s with keyLen := w.setWidth 8 }
  | .ivLen => { s with ivLen := w.setWidth 8 }
  | .inLen => { s with inLen := w }
  | .irqEn => { s with doneIe := w.getLsbD 0 }
  | .key k => { s with key := setLanes s.key k w }
  | .iv k => { s with iv := setLanes s.iv k w }
  | .ibuf m => { s with ibuf := s.ibuf.writeWord m w }
  | .id | .status | .outLen | .ibufCap | .obufCap | .obuf _ | .unbacked => s

/-- `MemWrite` (R62): while busy, a write to a busy-filtered target is dropped and sets IGNORED (R35). -/
def State.hostWrite (a : WordAddr) (w : Word) (s : State) : State :=
  if s.status.busy && (decodeAddr a).busyFiltered then { s with status := s.status.markIgnored }
  else s.writeTarget (decodeAddr a) w

/-- The word a read returns where the spec specifies it (R20 to R34, R61, R63 to R65, R67). -/
def State.readTarget (t : Target) (s : State) : Word :=
  match t with
  | .id => 0x434D4507
  | .status => s.status.toWord
  | .cmd => s.cmdLatch
  | .keyLen => s.keyLen.setWidth 32
  | .ivLen => s.ivLen.setWidth 32
  | .inLen => s.inLen
  | .outLen => s.outLen
  | .irqEn => bitWord s.doneIe
  | .ibufCap => BitVec.ofNat 32 Config.ibufSize
  | .obufCap => BitVec.ofNat 32 Config.obufSize
  | .iv k => laneWord fun j => s.iv.toList.getD (4 * k + j) 0
  | .ibuf m => laneWord fun j => s.ibufByte (4 * m + j)
  | .obuf m => laneWord fun j => s.obufByte (4 * m + j)
  | .ctrl | .key _ | .unbacked => 0

/-- The targets whose reads are unspecified while busy (R36). -/
def Target.unspecifiedWhileBusy : Target → Bool
  | .obuf _ | .iv _ => true
  | .id | .ctrl | .status | .cmd | .keyLen | .ivLen | .inLen | .outLen | .irqEn | .ibufCap | .obufCap | .key _
  | .ibuf _ | .unbacked => false

/-- A read that returns an unspecified word: a fresh draw (U3, U9). -/
def State.readFree (s : State) : State :=
  { s with rdata := Config.freeReadWord s.draws.read, draws := { s.draws with read := s.draws.read + 1 } }

/-- `MemRead` (R61): the word goes to h_rdata, and no other state of the engine changes. -/
def State.hostRead (a : WordAddr) (s : State) : State :=
  if s.status.busy && (decodeAddr a).unspecifiedWhileBusy then s.readFree
  else { s with rdata := s.readTarget (decodeAddr a) }

/-- A write event: it has no effect while the engine is held in reset (R230). -/
def State.writeEvent (a : WordAddr) (w : Word) (s : State) : State := if s.rstN then s.hostWrite a w else s

/-- A read event: it returns unspecified data while the engine is held in reset (R230, U9). -/
def State.readEvent (a : WordAddr) (s : State) : State := if s.rstN then s.hostRead a else s.readFree

end Sys2Proof.Machine
end

