-- ==== Sys2Proof/Machine/Sequencer.lean ====
section
/-! DEFINITION. The Sequencer's completion step (30_encoding.md R101) and what each input does to the machine (R9, R72,
R216). -/

namespace Sys2Proof.Machine

/-- Completion is enabled whenever STATUS.BUSY = 1 (R101) and the engine is not held in reset (R230, R232). -/
def State.completionEnabled (s : State) : Bool := s.rstN && s.status.busy

/-- Run the command in CMDLATCH to its completion: a legal word by its meaning, an illegal one with IllegalCommand
(R102, R205, check 1 of R207). -/
def State.runCommand (s : State) : Host.Outcome State Fault Refusal :=
  match decode s.fetchCommand with
  | .ok i => exec i s
  | .error _ => .next (s.fail .illegalCommand)

/-- The Sequencer's step: completion where it is enabled, and nothing where it is not (R101). -/
def State.sequencerStep (s : State) : Host.Outcome State Fault Refusal :=
  if s.completionEnabled then s.runCommand else .next s

/-- What one input does. -/
def State.handle (e : Event) (s : State) : Host.Outcome State Fault Refusal :=
  match e with
  | .hostWrite a w => .next (s.writeEvent a w)
  | .hostRead a => .next (s.readEvent a)
  | .sequencer => s.sequencerStep
  | .resetPin level => .next (s.setResetPin level)

/-- No input is pending: the Sequencer completes a running command if the ports answer (R250, U7), and otherwise
nothing happens: an idle engine holds its state and waits for a CMD write (R221, R230). -/
def State.quiet (s : State) : Host.Outcome State Fault Refusal :=
  if s.completionEnabled && Config.portsRespond then s.runCommand else .next s

/-- The command word of a table row with its bits above `nbits` zero. -/
def tableWord (nbits w : Nat) : Word := BitVec.ofNat 32 (w % 2 ^ nbits)

/-- The engine out of reset has just accepted the word, and the Sequencer's completion comes next. -/
def State.loadCommand (w : Word) (s : State) : State :=
  { s.accept w with rstN := true, events := .sequencer :: s.events }

end Sys2Proof.Machine
end

