-- ==== Sys2Proof/Machine/Step.lean ====
section
/-! DEFINITION. One step of the machine: it takes the next input and does what that input does. -/

namespace Sys2Proof.Machine

/-- One step. An access, a completion and a reset are each one atomic step (20_memory.md R72, 60_exceptions.md R216),
in the order in which `State.events` has them. -/
def step (s : State) : Host.Outcome State Fault Refusal :=
  match s.events with
  | [] => s.quiet
  | e :: rest => State.handle e { s with events := rest }

/-- The engine fetches no instruction (R46): a command comes by a host write to CMD. This is the state after that
write has been accepted, with its completion as the very next step (log entry 8). -/
def State.withFetchWord (s : State) (nbits w : Nat) : State := s.loadCommand (tableWord nbits w)

end Sys2Proof.Machine
end

