-- ==== Sys2Proof/Safety.lean ====
section
/-! DEFINITION. What a safe state and a safe run are: the invariants that the spec's own rules hold (10_state.md R23,
R28, R40, 20_memory.md R65, 70_reset_and_hazards.md R230) and the canonical form of the two memories. -/

namespace Sys2Proof.Machine

/-- The invariants of STATUS that R23 lists, with "codes 7 to 15 are never produced" (R200, U8). -/
structure Status.Consistent (f : Status) : Prop where
  busy_clears : f.busy = true → f.done = false ∧ f.err = false ∧ f.outValid = false ∧ f.errCode = 0
  err_iff : f.err = true ↔ f.errCode ≠ 0
  valid_no_err : f.outValid = true → f.err = false
  code_used : f.errCode.toNat < 7

/-- A byte memory in canonical form that lists no index from `size` on. -/
structure Memory.Fits (m : Memory) (size : Nat) : Prop where
  wf : m.wf
  below : ∀ c ∈ m, c.1 < size

/-- The machine's invariant. -/
structure State.Inv (s : State) : Prop where
  status : s.status.Consistent
  lastOp : s.status.lastOp = opField s.cmdLatch
  ibuf : s.ibuf.Fits Config.ibufSize
  obuf : s.obuf.Fits Config.obufSize
  /-- R65: exactly the bytes below OUT_LEN are specified, and only while OUT_VALID = 1. -/
  output : ∀ n, (s.obuf.read? n).isSome = true ↔ s.status.outValid = true ∧ n < s.outLen.toNat
  /-- R28: no output, length 0. -/
  noOutput : s.status.outValid = false → s.outLen = 0
  /-- R28: OUT_LEN never exceeds OBUF_SIZE. -/
  outFits : s.outLen.toNat ≤ Config.obufSize
  /-- R230: held in reset, the engine is idle with nothing to report. -/
  heldInReset : s.rstN = false → s.status = Status.reset ∧ s.doneIe = false

/-! ### The terms in which claims speak of a completion -/

/-- What no completion changes, successful or failed (R101, R211): the operand registers, IBUF byte for byte, IRQ_EN,
CMDLATCH, STATUS.IGNORED and STATUS.LAST_OP, the reset pin, the host's last read, the inputs to come, and the draws that
only hardware resets and host reads take. IVR and IVLEN are not among them: DECODE writes them. -/
structure Kept (s t : State) : Prop where
  key : t.key = s.key
  keyLen : t.keyLen = s.keyLen
  inLen : t.inLen = s.inLen
  ibuf : ∀ n, t.ibuf.read? n = s.ibuf.read? n
  ibufByte : ∀ n, t.ibufByte n = s.ibufByte n
  doneIe : t.doneIe = s.doneIe
  cmdLatch : t.cmdLatch = s.cmdLatch
  ignored : t.status.ignored = s.status.ignored
  lastOp : t.status.lastOp = s.status.lastOp
  rstN : t.rstN = s.rstN
  rdata : t.rdata = s.rdata
  events : t.events = s.events
  ibufDraw : t.draws.ibuf = s.draws.ibuf
  readDraw : t.draws.read = s.draws.read

/-- A successful completion (R101, case Ok) with the output `out`, after which IVR and IVLEN are `iv` and `ivLen`, and
which took `drawn` blocks of the random source. -/
structure Succeeded (s t : State) (out : Bytes) (iv : Block) (ivLen : Byte) (drawn : Nat) : Prop where
  status : t.status = { s.status with outValid := true, busy := false, done := true }
  outLen : t.outLen.toNat = out.length
  bytes : ∀ n, (h : n < out.length) → t.obufByte n = out[n]
  rest : ∀ n, out.length ≤ n → t.obuf.read? n = none
  ivr : t.iv = iv
  ivlen : t.ivLen = ivLen
  rng : t.draws.rng = s.draws.rng + drawn
  kept : Kept s t

/-- A completion with the error code `code` (R101, case Err; R210, R211): every OBUF byte is unspecified, and nothing
but STATUS and OBUF changes. -/
structure Failed (s t : State) (code : BitVec 4) : Prop where
  status : t.status = { s.status with errCode := code, err := true, busy := false, done := true }
  outLen : t.outLen = s.outLen
  obuf : ∀ n, t.obuf.read? n = none
  ivr : t.iv = s.iv
  ivlen : t.ivLen = s.ivLen
  rng : t.draws.rng = s.draws.rng
  kept : Kept s t

/-- The registers, flags and outputs after a reset (the table of R48), IBUF apart. -/
structure InResetState (t : State) : Prop where
  status : t.status = Status.reset
  statusWord : t.status.toWord = 0
  cmdLatch : t.cmdLatch = 0
  keyLen : t.keyLen = 0
  ivLen : t.ivLen = 0
  inLen : t.inLen = 0
  outLen : t.outLen = 0
  doneIe : t.doneIe = false
  key : ∀ j : Fin 32, t.key[j] = 0
  iv : ∀ j : Fin 16, t.iv[j] = 0
  obuf : ∀ n, t.obuf.read? n = none
  irq : t.irq = false

end Sys2Proof.Machine
end

