-- ==== Sys2Proof/Certificates/Slice0/Obligations.lean ====
section
/-! DEFINITION. The statements for the provers, from the numbered rules of the spec. Each docstring names the rule it
formalises or, for a derived one, the section it rests on. -/

namespace Sys2Proof.Spec

open Sys2Proof.Machine

/-! ### The spec's own formulas, written out again for the statements -/

/-- `legal(w)`, letter by letter from R95. -/
abbrev Legal (w : Word) : Prop :=
  w.extractLsb' 8 24 = 0
    ∧ (w.extractLsb' 0 4).toNat ∈ [1, 2, 3, 4, 5, 6, 7, 8]
    ∧ (w.extractLsb' 7 1 = 0 ∨ (w.extractLsb' 0 4).toNat = 1)
    ∧ ((w.extractLsb' 0 4).toNat ∈ [1, 2, 3, 4] ∨ w.extractLsb' 4 3 = 0)

/-- The words of R96 that name a supported operation. -/
def supportedWords : List Word :=
  [0x01, 0x11, 0x21, 0x31, 0x81, 0x91, 0xA1, 0xB1, 0x02, 0x12, 0x22, 0x32,
   0x03, 0x13, 0x23, 0x33, 0x04, 0x14, 0x24, 0x34, 0x05, 0x06, 0x07, 0x08]

/-- The words of R96 that carry MODE 4 to 7. -/
def unsupportedWords : List Word :=
  [0x41, 0x51, 0x61, 0x71, 0xC1, 0xD1, 0xE1, 0xF1, 0x42, 0x52, 0x62, 0x72,
   0x43, 0x53, 0x63, 0x73, 0x44, 0x54, 0x64, 0x74]

/-- The checks 2 to 7 of `precheck(w, KL, VL, L)` for a legal word, and check 1, letter by letter from R207, with the
error codes of R200. -/
def precheck (w : Word) (kl vl : Byte) (l : Nat) : Option (BitVec 4) :=
  let op := (w.extractLsb' 0 4).toNat
  let m := (w.extractLsb' 4 3).toNat
  let s := (w.extractLsb' 7 1).toNat
  if ¬ Legal w then some 5
  else if op ∈ [1, 2, 3, 4] ∧ 4 ≤ m then some 1
  else if op ∈ [1, 2, 3, 4] ∧ kl ≠ 32 then some 2
  else if ((op = 1 ∧ s = 1) ∨ op ∈ [3, 4, 7]) ∧ vl ≠ 16 then some 2
  else if l > Config.ibufSize then some 6
  else if op ∈ [2, 8] ∧ l < 16 then some 4
  else if op ∈ [2, 3, 4] ∧ m = 0 ∧ l % 16 ≠ 0 then some 3
  else none

/-- ENCRYPT's constructors with their mode and IV source. -/
def encryptForms : List (Instr × Mode × IvSrc) :=
  [(.encryptCbcRng, .cbc, .rng), (.encryptCfbRng, .cfb, .rng), (.encryptOfbRng, .ofb, .rng),
   (.encryptCtrRng, .ctr, .rng), (.encryptCbcReg, .cbc, .reg), (.encryptCfbReg, .cfb, .reg),
   (.encryptOfbReg, .ofb, .reg), (.encryptCtrReg, .ctr, .reg)]

/-- DECRYPT's constructors with their mode. -/
def decryptForms : List (Instr × Mode) :=
  [(.decryptCbc, .cbc), (.decryptCfb, .cfb), (.decryptOfb, .ofb), (.decryptCtr, .ctr)]

/-- XFORM_FWD's constructors with their mode. -/
def xformFwdForms : List (Instr × Mode) :=
  [(.xformFwdCbc, .cbc), (.xformFwdCfb, .cfb), (.xformFwdOfb, .ofb), (.xformFwdCtr, .ctr)]

/-- XFORM_INV's constructors with their mode. -/
def xformInvForms : List (Instr × Mode) :=
  [(.xformInvCbc, .cbc), (.xformInvCfb, .cfb), (.xformInvOfb, .ofb), (.xformInvCtr, .ctr)]

/-- The commands that read K and KL, by the table of R99. -/
def readsKey : Instr → Bool
  | .encryptCbcRng | .encryptCfbRng | .encryptOfbRng | .encryptCtrRng => true
  | .encryptCbcReg | .encryptCfbReg | .encryptOfbReg | .encryptCtrReg => true
  | .decryptCbc | .decryptCfb | .decryptOfb | .decryptCtr => true
  | .xformFwdCbc | .xformFwdCfb | .xformFwdOfb | .xformFwdCtr => true
  | .xformInvCbc | .xformInvCfb | .xformInvOfb | .xformInvCtr => true
  | .padData | .unpadData | .encodeContainer | .decodeContainer => false
  | .encryptNoMode _ _ | .decryptNoMode _ | .xformFwdNoMode _ | .xformInvNoMode _ => false

/-- The commands that read V and VL, by the table of R99. -/
def readsIv : Instr → Bool
  | .encryptCbcReg | .encryptCfbReg | .encryptOfbReg | .encryptCtrReg => true
  | .xformFwdCbc | .xformFwdCfb | .xformFwdOfb | .xformFwdCtr => true
  | .xformInvCbc | .xformInvCfb | .xformInvOfb | .xformInvCtr => true
  | .encodeContainer => true
  | .encryptCbcRng | .encryptCfbRng | .encryptOfbRng | .encryptCtrRng => false
  | .decryptCbc | .decryptCfb | .decryptOfb | .decryptCtr => false
  | .padData | .unpadData | .decodeContainer => false
  | .encryptNoMode _ _ | .decryptNoMode _ | .xformFwdNoMode _ | .xformInvNoMode _ => false

/-- The commands that read the draw r, by the table of R99. -/
def readsDraw : Instr → Bool
  | .encryptCbcRng | .encryptCfbRng | .encryptOfbRng | .encryptCtrRng => true
  | .encryptCbcReg | .encryptCfbReg | .encryptOfbReg | .encryptCtrReg => false
  | .decryptCbc | .decryptCfb | .decryptOfb | .decryptCtr => false
  | .xformFwdCbc | .xformFwdCfb | .xformFwdOfb | .xformFwdCtr => false
  | .xformInvCbc | .xformInvCfb | .xformInvOfb | .xformInvCtr => false
  | .padData | .unpadData | .encodeContainer | .decodeContainer => false
  | .encryptNoMode _ _ | .decryptNoMode _ | .xformFwdNoMode _ | .xformInvNoMode _ => false

/-- Admissible data of a mode: whole blocks for CBC (R135), any length for the others. -/
def Admissible (m : Mode) (x : Bytes) : Prop := m = .cbc → x.length % 16 = 0

/-- The byte offsets of the registers that a busy engine does not let the host write (R35), IBUF apart. -/
def filteredOffsets : List Nat :=
  [0x00C, 0x010, 0x014, 0x018, 0x040, 0x044, 0x048, 0x04C, 0x050, 0x054, 0x058, 0x05C, 0x060, 0x064, 0x068, 0x06C]

/-- The byte offsets of the read-only registers (R20). -/
def readOnlyOffsets : List Nat := [0x000, 0x008, 0x01C, 0x024, 0x028]

/-- What the registers other than STATUS, OUT_LEN and IV0 to IV3 read, busy or not (R20 to R33). -/
def ordinaryReads (s : State) : List (Nat × Word) :=
  [(0x000, 0x434D4507), (0x004, 0), (0x00C, s.cmdLatch), (0x010, s.keyLen.setWidth 32), (0x014, s.ivLen.setWidth 32),
   (0x018, s.inLen), (0x020, if s.doneIe then 1 else 0), (0x024, BitVec.ofNat 32 Config.ibufSize),
   (0x028, BitVec.ofNat 32 (Config.ibufSize + 32)), (0x040, 0), (0x044, 0), (0x048, 0), (0x04C, 0), (0x050, 0),
   (0x054, 0), (0x058, 0), (0x05C, 0)]

/-- The reserved and unbacked byte offsets (R34, R66, R67). -/
def Reserved (off : Nat) : Prop :=
  (0x02C ≤ off ∧ off ≤ 0x03C) ∨ (0x070 ≤ off ∧ off ≤ 0x0FC) ∨ (0x100 ≤ off ∧ off ≤ 0xFFFFC)
    ∨ (0x100000 + Config.ibufSize ≤ off ∧ off ≤ 0x1FFFFC) ∨ (0x200000 + Config.obufSize ≤ off ∧ off ≤ 0x2FFFFC)
    ∨ (0x300000 ≤ off ∧ off ≤ 0x3FFFFC)

/-- A host write to a byte offset is the next input of an engine that is out of reset. -/
def WriteNext (s : State) (off : Nat) (w : Word) (rest : List Event) : Prop :=
  s.rstN = true ∧ s.events = .hostWrite (wordAddr off) w :: rest

/-- A host read of a byte offset is the next input of an engine that is out of reset. -/
def ReadNext (s : State) (off : Nat) (rest : List Event) : Prop :=
  s.rstN = true ∧ s.events = .hostRead (wordAddr off) :: rest

/-- The completion of the running command is the next input. -/
def CompletionNext (s : State) (rest : List Event) : Prop :=
  s.rstN = true ∧ s.status.busy = true ∧ s.events = .sequencer :: rest

/-- A host write of the word to CMD and then the completion of that command are the next inputs. -/
def CommandNext (s : State) (w : Word) (rest : List Event) : Prop :=
  s.rstN = true ∧ s.events = .hostWrite (wordAddr 0x00C) w :: .sequencer :: rest

/-- ENCRYPT's constructors that draw their IV. -/
def rngForms : List (Instr × Mode) :=
  [(.encryptCbcRng, .cbc), (.encryptCfbRng, .cfb), (.encryptOfbRng, .ofb), (.encryptCtrRng, .ctr)]

/-- Two states that agree on everything but the Sequencer's working state. -/
def SameButWork (s t : State) : Prop := t = { s with work := t.work }

/-- Two states that agree on everything but KEY. -/
def SameButKey (s t : State) : Prop := t = { s with key := t.key }

end Sys2Proof.Spec

open Sys2Proof Sys2Proof.Machine Sys2Proof.Spec

/-! ### Encoding -/

/-- Decode and encode agree (30_encoding.md sections 1 and 2): the decoder reads every well-formed instruction back from
its word, with every MODE and IV source it can carry. -/
def Obligations.DecodeEncodeRoundTrip : Prop :=
  ∀ i : Instr, WellFormed i → decode (encode i) = .ok i

/-- The other direction (30_encoding.md sections 1 and 2): a word the decoder accepts is the word of the instruction it
reads, which is well formed. -/
def Obligations.EncodeOfDecodedWord : Prop :=
  ∀ (w : Word) (i : Instr), decode w = .ok i → encode i = w ∧ WellFormed i

/-- R95, R96: the decoder accepts exactly the legal words, and they are exactly the 44 of the table, 24 of them supported
and 20 with MODE 4 to 7. -/
def Obligations.DecodeAcceptsExactlyLegalWords : Prop :=
  (∀ w : Word, (∃ i, decode w = .ok i) ↔ Legal w)
    ∧ (∀ w : Word, Legal w ↔ w ∈ supportedWords ∨ w ∈ unsupportedWords)
    ∧ supportedWords.length = 24 ∧ unsupportedWords.length = 20 ∧ (supportedWords ++ unsupportedWords).Nodup
    ∧ (∀ w : Word, Legal w →
        (w ∈ unsupportedWords ↔ (w.extractLsb' 0 4).toNat ∈ [1, 2, 3, 4] ∧ 4 ≤ (w.extractLsb' 4 3).toNat))

/-- One word of each family from the table of R96, decoded (a sanity statement). -/
def Obligations.TableWordsDecode : Prop :=
  decode 0x31 = .ok .encryptCtrRng ∧ decode 0x91 = .ok .encryptCfbReg ∧ decode 0x12 = .ok .decryptCfb
    ∧ decode 0x23 = .ok .xformFwdOfb ∧ decode 0x34 = .ok .xformInvCtr ∧ decode 0x05 = .ok .padData
    ∧ decode 0x06 = .ok .unpadData ∧ decode 0x07 = .ok .encodeContainer ∧ decode 0x08 = .ok .decodeContainer
    ∧ decode 0xD1 = .ok (.encryptNoMode 5 .reg) ∧ decode 0x72 = .ok (.decryptNoMode 7)

/-! ### The step -/

/-- A completion step runs the decoded command (30_encoding.md section 3): it is exec of that instruction at the state
with the completion taken off the inputs. -/
def Obligations.StepRunsDecodedCommand : Prop :=
  ∀ (s : State) (rest : List Event) (i : Instr), CompletionNext s rest → decode s.cmdLatch = .ok i →
    step s = exec i { s with events := rest }

/-- The word that the host places is the command the very next step runs, in the state after its acceptance (the
model's withFetchWord, log entry 8; 30_encoding.md section 3). -/
def Obligations.PlacedWordIsRunNext : Prop :=
  ∀ (s : State) (w : Nat) (i : Instr), decode (BitVec.ofNat 32 (w % 2 ^ 32)) = .ok i →
    ∃ a : State, step (s.withFetchWord 32 w) = exec i a ∧ a.status.busy = true ∧ a.rstN = true
      ∧ a.cmdLatch = BitVec.ofNat 32 (w % 2 ^ 32) ∧ a.key = s.key ∧ a.keyLen = s.keyLen ∧ a.iv = s.iv
      ∧ a.ivLen = s.ivLen ∧ a.inLen = s.inLen ∧ a.ibuf = s.ibuf ∧ a.draws.ibuf = s.draws.ibuf
      ∧ a.draws.rng = s.draws.rng ∧ a.doneIe = s.doneIe ∧ a.events = s.events ∧ a.outLen = 0

/-- Nothing stops the engine (60_exceptions.md sections 1 and 3): no state faults or is refused. -/
def Obligations.EveryStepAnswersNext : Prop :=
  ∀ s : State, ∃ t : State, step s = .next t

/-- A completion step ends the command, successful or failed (30_encoding.md section 3): BUSY falls, DONE rises, and
exactly one of OUT_VALID and ERR is set. -/
def Obligations.CompletionEndsTheCommand : Prop :=
  ∀ (s : State) (rest : List Event), s.Inv → CompletionNext s rest →
    ∃ t : State, step s = .next t ∧ t.status.busy = false ∧ t.status.done = true ∧ t.events = rest
      ∧ (t.status.outValid = true ↔ t.status.err = false)
      ∧ (t.status.err = true ↔ t.status.errCode ≠ 0)
      ∧ t.cmdLatch = s.cmdLatch ∧ t.status.ignored = s.status.ignored ∧ t.status.lastOp = s.status.lastOp

/-- With no input pending an idle engine holds its state, and a busy one holds it or completes (60_exceptions.md
section 5, 70_reset_and_hazards.md section 4; whether it completes is the parameter PORTS_RESPOND, log entry 9). -/
def Obligations.QuietStepHoldsOrCompletes : Prop :=
  ∀ s : State, s.events = [] →
    (s.rstN = false ∨ s.status.busy = false → step s = .next s)
      ∧ (step s = .next s ∨ step s = s.runCommand)

/-- The state right after a hardware reset (10_state.md section 3): the registers of R48's table, IBUF and OBUF with no
specified byte, out of reset with nothing pending, and the invariant. -/
def Obligations.ResetStateIsConsistent : Prop :=
  InResetState State.reset ∧ (∀ n, State.reset.ibuf.read? n = none) ∧ State.reset.rstN = true
    ∧ State.reset.events = [] ∧ State.reset.Inv

/-- Every step keeps the invariant (10_state.md section 1, 20_memory.md section 2, 70_reset_and_hazards.md section 1):
R23's invariants of STATUS, LAST_OP the OP field of CMDLATCH, both buffers in canonical form within their sizes, the
specified OBUF bytes exactly those below OUT_LEN while OUT_VALID = 1, OUT_LEN within OBUF_SIZE, and, by the model's
choice of log entry 10, STATUS and DONE_IE at their reset values while rst_n = 0. -/
def Obligations.StepKeepsConsistency : Prop :=
  ∀ s t : State, s.Inv → step s = .next t → t.Inv

/-! ### The host port -/

/-- R21, R31, R32: ID reads its constant at all times, with the letters C, M, E and the revision in its bytes, and
IBUF_CAP and OBUF_CAP read the capacities at all times. -/
def Obligations.ConstantRegistersRead : Prop :=
  (∀ (s : State) (rest : List Event), ReadNext s 0x000 rest →
    step s = .next { s with events := rest, rdata := 0x434D4507 })
    ∧ le32 0x434D4507 = [0x07, 0x45, 0x4D, 0x43]
    ∧ (∀ (s : State) (rest : List Event), ReadNext s 0x024 rest →
      ∃ t, step s = .next t ∧ t.rdata.toNat = Config.ibufSize ∧ t = { s with events := rest, rdata := t.rdata })
    ∧ (∀ (s : State) (rest : List Event), ReadNext s 0x028 rest →
      ∃ t, step s = .next t ∧ t.rdata.toNat = Config.ibufSize + 32 ∧ t = { s with events := rest, rdata := t.rdata })

/-- R34, R67: a reserved or unbacked address reads 0, and a write to it changes nothing, busy or not. -/
def Obligations.ReservedAddressesReadZero : Prop :=
  ∀ (s : State) (off : Nat) (w : Word) (rest : List Event), off % 4 = 0 → Reserved off →
    (ReadNext s off rest → step s = .next { s with events := rest, rdata := 0 })
      ∧ (WriteNext s off w rest → step s = .next { s with events := rest })

/-- R35: while busy, a write to a busy-filtered target only sets IGNORED; IRQ_EN and CTRL writes are honoured; writes to
read-only registers, OBUF and reserved addresses change nothing, busy or not. -/
def Obligations.BusyFilter : Prop :=
  ∀ (s : State) (off : Nat) (w : Word) (rest : List Event), off % 4 = 0 → WriteNext s off w rest →
    (s.status.busy = true → off ∈ filteredOffsets ∨ (0x100000 ≤ off ∧ off < 0x100000 + Config.ibufSize) →
      step s = .next { s with events := rest, status := { s.status with ignored := true } })
    ∧ (s.status.busy = true → off = 0x020 → step s = .next { s with events := rest, doneIe := w.getLsbD 0 })
    ∧ (s.status.busy = true → off = 0x004 → step s = .next (State.writeCtrl w { s with events := rest }))
    ∧ (off ∈ readOnlyOffsets ∨ (0x200000 ≤ off ∧ off < 0x200000 + Config.obufSize) ∨ Reserved off →
      step s = .next { s with events := rest })

/-- R36: while busy, OBUF and IV0 to IV3 read an unspecified word, a fresh draw for each read; OUT_LEN reads 0, STATUS
reads BUSY = 1, and every other register reads as on an idle engine. -/
def Obligations.ReadsWhileBusy : Prop :=
  ∀ (s : State) (off : Nat) (rest : List Event), s.Inv → off % 4 = 0 → s.status.busy = true → ReadNext s off rest →
    ((off ∈ [0x060, 0x064, 0x068, 0x06C] ∨ (0x200000 ≤ off ∧ off < 0x200000 + Config.obufSize)) →
      ∃ t, step s = .next t ∧ t.rdata = Config.freeReadWord s.draws.read ∧ t.draws.read = s.draws.read + 1
        ∧ t = { s with events := rest, rdata := t.rdata, draws := { s.draws with read := t.draws.read } })
    ∧ (off = 0x01C → step s = .next { s with events := rest, rdata := 0 })
    ∧ (off = 0x008 → ∃ t, step s = .next t ∧ t.rdata.getLsbD 0 = true ∧ t = { s with events := rest, rdata := t.rdata })
    ∧ (∀ v : Word, (off, v) ∈ ordinaryReads s → step s = .next { s with events := rest, rdata := v })

/-- A host read changes nothing but the word on h_rdata, the inputs and the count of unspecified reads (20_memory.md
sections 1 and 3). -/
def Obligations.ReadsHaveNoSideEffect : Prop :=
  ∀ (s : State) (a : WordAddr) (rest : List Event), s.events = .hostRead a :: rest →
    ∃ t, step s = .next t
      ∧ t = { s with events := rest, rdata := t.rdata, draws := { s.draws with read := t.draws.read } }

/-- R22: CTRL reads 0; SRST is the soft reset alone; otherwise ACK clears DONE and CLR_IGN clears IGNORED, each where
its bit is 1, and nothing else happens, busy or not. -/
def Obligations.ControlActions : Prop :=
  (∀ (s : State) (rest : List Event), ReadNext s 0x004 rest → step s = .next { s with events := rest, rdata := 0 })
  ∧ ∀ (s : State) (w : Word) (rest : List Event), WriteNext s 0x004 w rest →
    (w.getLsbD 0 = true → step s = .next (State.softReset { s with events := rest }))
    ∧ (w.getLsbD 0 = false → step s = .next { s with
          events := rest
          status := { s.status with
            done := s.status.done && !w.getLsbD 1, ignored := s.status.ignored && !w.getLsbD 2 } })

/-- R33: IRQ_EN keeps bit 0 of what is written, busy or not, and reads it back with the other bits 0; it resets to 0. -/
def Obligations.InterruptEnableRegister : Prop :=
  (∀ (s : State) (w : Word) (rest : List Event), WriteNext s 0x020 w rest →
    step s = .next { s with events := rest, doneIe := w.getLsbD 0 })
  ∧ (∀ (s : State) (rest : List Event), ReadNext s 0x020 rest →
    step s = .next { s with events := rest, rdata := if s.doneIe then 1 else 0 })
  ∧ State.reset.doneIe = false

/-- On an idle engine (10_state.md section 1): KEYLEN and IVLEN keep bits [7:0] and read back with the other bits 0,
IN_LEN keeps the word; OUT_LEN reads the output length, CMD the last accepted word, and every other register but STATUS
and IV0 to IV3, which have statements of their own, its contents. -/
def Obligations.LengthRegistersStore : Prop :=
  ∀ (s : State) (w : Word) (rest : List Event), s.status.busy = false →
    (WriteNext s 0x010 w rest → step s = .next { s with events := rest, keyLen := w.extractLsb' 0 8 })
    ∧ (WriteNext s 0x014 w rest → step s = .next { s with events := rest, ivLen := w.extractLsb' 0 8 })
    ∧ (WriteNext s 0x018 w rest → step s = .next { s with events := rest, inLen := w })
    ∧ (ReadNext s 0x010 rest → step s = .next { s with events := rest, rdata := s.keyLen.setWidth 32 })
    ∧ (ReadNext s 0x014 rest → step s = .next { s with events := rest, rdata := s.ivLen.setWidth 32 })
    ∧ (ReadNext s 0x018 rest → step s = .next { s with events := rest, rdata := s.inLen })
    ∧ (ReadNext s 0x01C rest → step s = .next { s with events := rest, rdata := s.outLen })
    ∧ (ReadNext s 0x00C rest → step s = .next { s with events := rest, rdata := s.cmdLatch })
    ∧ (∀ (off : Nat) (v : Word), (off, v) ∈ ordinaryReads s → ReadNext s off rest →
      step s = .next { s with events := rest, rdata := v })

/-- R29: a write to KEYk sets key bytes 4k to 4k+3 to the word's lanes and nothing else; KEY reads 0 in every state; and
no step changes KEY but an idle host's write to it or a reset, which leaves it zero (a soft reset at once, a hardware
reset when rst_n returns to 1). -/
def Obligations.KeyRegisters : Prop :=
  (∀ (s : State) (k : Nat) (w : Word) (rest : List Event), k < 8 → s.status.busy = false →
    WriteNext s (0x040 + 4 * k) w rest →
    ∃ t, step s = .next t ∧ t = { s with events := rest, key := t.key }
      ∧ ∀ j : Fin 32, t.key[j] = if j.val / 4 = k then w.extractLsb' (8 * (j.val % 4)) 8 else s.key[j])
  ∧ (∀ (s : State) (k : Nat) (rest : List Event), k < 8 → ReadNext s (0x040 + 4 * k) rest →
    step s = .next { s with events := rest, rdata := 0 })
  ∧ (∀ s t : State, step s = .next t → t.key ≠ s.key →
    (∃ (a : WordAddr) (w : Word) (k : Nat), s.events.head? = some (.hostWrite a w) ∧ s.rstN = true
        ∧ s.status.busy = false ∧ k < 8 ∧ 4 * a.toNat = 0x040 + 4 * k)
    ∨ s.events.head? = some (.resetPin false)
    ∨ (s.events.head? = some (.resetPin true)
        ∨ ∃ (a : WordAddr) (w : Word), s.events.head? = some (.hostWrite a w) ∧ 4 * a.toNat = 0x004 ∧ w.getLsbD 0 = true)
      ∧ ∀ j : Fin 32, t.key[j] = 0)

/-- R30: a write to IVk sets IV bytes 4k to 4k+3 to the word's lanes and nothing else; an idle read returns those lanes;
no step changes IVR but an idle host's write to it, a successful DECODE, or a reset, which leaves it zero (a soft reset
at once, a hardware reset when rst_n returns to 1); and byte 0 is the most significant byte of the counter. -/
def Obligations.IvRegisters : Prop :=
  (∀ (s : State) (k : Nat) (w : Word) (rest : List Event), k < 4 → s.status.busy = false →
    WriteNext s (0x060 + 4 * k) w rest →
    ∃ t, step s = .next t ∧ t = { s with events := rest, iv := t.iv }
      ∧ ∀ j : Fin 16, t.iv[j] = if j.val / 4 = k then w.extractLsb' (8 * (j.val % 4)) 8 else s.iv[j])
  ∧ (∀ (s : State) (k : Nat) (rest : List Event), k < 4 → s.status.busy = false → ReadNext s (0x060 + 4 * k) rest →
    ∃ t, step s = .next t ∧ t = { s with events := rest, rdata := t.rdata }
      ∧ le32 t.rdata = (s.iv.toList.drop (4 * k)).take 4)
  ∧ (∀ s t : State, step s = .next t → t.iv ≠ s.iv →
    (∃ (a : WordAddr) (w : Word) (k : Nat), s.events.head? = some (.hostWrite a w) ∧ s.rstN = true
        ∧ s.status.busy = false ∧ k < 4 ∧ 4 * a.toNat = 0x060 + 4 * k)
    ∨ (decode s.cmdLatch = .ok .decodeContainer ∧ s.status.busy = true ∧ t.status.outValid = true)
    ∨ s.events.head? = some (.resetPin false)
    ∨ (s.events.head? = some (.resetPin true)
        ∨ ∃ (a : WordAddr) (w : Word), s.events.head? = some (.hostWrite a w) ∧ 4 * a.toNat = 0x004 ∧ w.getLsbD 0 = true)
      ∧ ∀ j : Fin 16, t.iv[j] = 0)
  ∧ ∀ v : Block, be v.toList / 2 ^ 120 = v[0].toNat

/-- IBUF (20_memory.md section 2): an idle host write sets the four bytes of its word and leaves every other byte of
IBUF and everything else alone; a read returns the four bytes, busy or not. -/
def Obligations.IbufWordAccess : Prop :=
  ∀ (s : State) (m : Nat) (w : Word) (rest : List Event), 4 * m < Config.ibufSize →
    (s.status.busy = false → WriteNext s (0x100000 + 4 * m) w rest →
      ∃ t, step s = .next t ∧ t = { s with events := rest, ibuf := t.ibuf }
        ∧ (∀ j, j < 4 → t.ibufByte (4 * m + j) = w.extractLsb' (8 * j) 8)
        ∧ (∀ n, n < 4 * m ∨ 4 * m + 4 ≤ n → t.ibufByte n = s.ibufByte n ∧ t.ibuf.read? n = s.ibuf.read? n))
    ∧ (ReadNext s (0x100000 + 4 * m) rest →
      ∃ t, step s = .next t ∧ t = { s with events := rest, rdata := t.rdata }
        ∧ le32 t.rdata = (List.range 4).map fun j => s.ibufByte (4 * m + j))

/-- OBUF (20_memory.md section 2): an idle read of a word returns its four bytes, and no host access, read or write,
changes a byte of OBUF but a CMD write that is accepted and a soft reset, both of which leave every byte
unspecified. -/
def Obligations.ObufWordAccess : Prop :=
  (∀ (s : State) (m : Nat) (rest : List Event), 4 * m < Config.obufSize → s.status.busy = false →
    ReadNext s (0x200000 + 4 * m) rest →
    ∃ t, step s = .next t ∧ t = { s with events := rest, rdata := t.rdata }
      ∧ le32 t.rdata = (List.range 4).map fun j => s.obufByte (4 * m + j))
  ∧ (∀ (s t : State) (a : WordAddr) (w : Word) (rest : List Event), s.events = .hostWrite a w :: rest → step s = .next t →
    (∀ n, t.obufByte n = s.obufByte n ∧ t.obuf.read? n = s.obuf.read? n)
    ∨ ((4 * a.toNat = 0x00C ∧ s.status.busy = false ∨ 4 * a.toNat = 0x004 ∧ w.getLsbD 0 = true)
      ∧ ∀ n, t.obuf.read? n = none))
  ∧ (∀ (s t : State) (a : WordAddr) (rest : List Event), s.events = .hostRead a :: rest → step s = .next t →
    ∀ n, t.obufByte n = s.obufByte n ∧ t.obuf.read? n = s.obuf.read? n)

/-- The word a STATUS read returns, bit by bit (10_state.md section 1). -/
def Obligations.StatusWordLayout : Prop :=
  ∀ (s : State) (rest : List Event), ReadNext s 0x008 rest →
    ∃ t, step s = .next t ∧ t = { s with events := rest, rdata := t.rdata }
      ∧ t.rdata.getLsbD 0 = s.status.busy ∧ t.rdata.getLsbD 1 = s.status.done ∧ t.rdata.getLsbD 2 = s.status.err
      ∧ t.rdata.getLsbD 3 = s.status.outValid ∧ t.rdata.getLsbD 4 = s.status.ignored ∧ t.rdata.extractLsb' 5 3 = 0
      ∧ t.rdata.extractLsb' 8 4 = s.status.errCode ∧ t.rdata.extractLsb' 12 4 = s.status.lastOp
      ∧ t.rdata.extractLsb' 16 16 = 0

/-! ### Acceptance, the interrupt and reset -/

/-- R100: an idle host write of any word to CMD accepts it, with exactly the writes of `accept`; one while busy is not
accepted; and no other step raises BUSY. (By 20_memory.md section 2, OBUF holds no specified byte from then on.) -/
def Obligations.AcceptanceOfACommand : Prop :=
  (∀ (s : State) (w : Word) (rest : List Event), WriteNext s 0x00C w rest → s.status.busy = false →
    ∃ t, step s = .next t
      ∧ t = { s with
          events := rest, cmdLatch := w, outLen := 0, obuf := [], draws := t.draws
          status := { s.status with
            lastOp := w.extractLsb' 0 4, busy := true, done := false, err := false, errCode := 0, outValid := false } }
      ∧ t.draws.ibuf = s.draws.ibuf ∧ t.draws.rng = s.draws.rng ∧ t.draws.read = s.draws.read)
  ∧ (∀ (s : State) (w : Word) (rest : List Event), WriteNext s 0x00C w rest → s.status.busy = true →
    step s = .next { s with events := rest, status := { s.status with ignored := true } })
  ∧ (∀ s t : State, step s = .next t → s.status.busy = false → t.status.busy = true →
    ∃ (a : WordAddr) (w : Word), s.events.head? = some (.hostWrite a w) ∧ 4 * a.toNat = 0x00C ∧ s.rstN = true)

/-- A running command ends only by its completion or a reset (60_exceptions.md section 3): if a step lowers BUSY, its
input is the completion (or there is none and the ports answered), which leaves DONE = 1, or a soft reset or the reset
pin, which leaves DONE = 0 (from the pin's fall on by the model's choice of log entry 10). -/
def Obligations.OnlyCompletionOrResetEndsACommand : Prop :=
  ∀ s t : State, step s = .next t → s.status.busy = true → t.status.busy = false →
    (s.events = [] ∨ s.events.head? = some .sequencer) ∧ t.status.done = true
    ∨ ((∃ level, s.events.head? = some (.resetPin level))
        ∨ ∃ (a : WordAddr) (w : Word), s.events.head? = some (.hostWrite a w) ∧ 4 * a.toNat = 0x004 ∧ w.getLsbD 0 = true)
      ∧ t.status.done = false

/-- R214: irq is DONE ∧ DONE_IE at every moment. It rises at every completion, of a legal or an illegal word, successful or
failed, where DONE_IE = 1; it is low after an ACK, an acceptance, a soft reset, a hardware reset (when rst_n returns to
1), and a write of 0 to DONE_IE; and a write of 1 to DONE_IE gives it the value of DONE at once. -/
def Obligations.InterruptOutput : Prop :=
  (∀ s : State, s.irq = (s.status.done && s.doneIe))
  ∧ (∀ (s t : State) (i : Instr), exec i s = .next t → t.irq = s.doneIe)
  ∧ (∀ (s : State) (rest : List Event), CompletionNext s rest → ∃ t, step s = .next t ∧ t.irq = s.doneIe)
  ∧ (∀ (s : State) (w : Word) (rest : List Event), WriteNext s 0x004 w rest → (w.getLsbD 0 = true ∨ w.getLsbD 1 = true) →
    ∃ t, step s = .next t ∧ t.irq = false)
  ∧ (∀ (s : State) (w : Word) (rest : List Event), WriteNext s 0x00C w rest → s.status.busy = false →
    ∃ t, step s = .next t ∧ t.irq = false)
  ∧ (∀ (s : State) (rest : List Event), s.rstN = false → s.events = .resetPin true :: rest →
    ∃ t, step s = .next t ∧ t.irq = false)
  ∧ (∀ (s : State) (w : Word) (rest : List Event), WriteNext s 0x020 w rest →
    ∃ t, step s = .next t ∧ t.irq = (s.status.done && w.getLsbD 0))

/-- R230: the pin at 0 puts the engine in reset and holds it there: host writes have no effect, reads return unspecified
data, and no command completes; the pin's return to 1 leaves the hardware-reset values, with IBUF and OBUF unspecified
and irq low. -/
def Obligations.HardwareReset : Prop :=
  (∀ (s : State) (rest : List Event), s.events = .resetPin false :: rest →
    ∃ t, step s = .next t ∧ t.rstN = false ∧ t.events = rest)
  ∧ (∀ (s : State) (a : WordAddr) (w : Word) (rest : List Event), s.rstN = false → s.events = .hostWrite a w :: rest →
    step s = .next { s with events := rest })
  ∧ (∀ (s : State) (a : WordAddr) (rest : List Event), s.rstN = false → s.events = .hostRead a :: rest →
    ∃ t, step s = .next t ∧ t.rdata = Config.freeReadWord s.draws.read
      ∧ t = { s with events := rest, rdata := t.rdata, draws := { s.draws with read := s.draws.read + 1 } })
  ∧ (∀ (s : State) (rest : List Event), s.rstN = false → s.events = .sequencer :: rest →
    step s = .next { s with events := rest })
  ∧ (∀ (s : State) (rest : List Event), s.rstN = false → s.events = .resetPin true :: rest →
    ∃ t, step s = .next t ∧ t.rstN = true ∧ t.events = rest ∧ InResetState t ∧ ∀ n, t.ibuf.read? n = none)

/-- R231: a write to CTRL with bit 0 set resets the engine within that write, whatever BUSY is: every register has its
reset value, every byte of IBUF is unchanged, and OBUF is unspecified. -/
def Obligations.SoftReset : Prop :=
  ∀ (s : State) (w : Word) (rest : List Event), WriteNext s 0x004 w rest → w.getLsbD 0 = true →
    ∃ t, step s = .next t ∧ InResetState t ∧ t.rstN = true ∧ t.events = rest
      ∧ ∀ n, t.ibufByte n = s.ibufByte n ∧ t.ibuf.read? n = s.ibuf.read? n

/-- A soft reset while busy abandons the command (70_reset_and_hazards.md section 1): the completion that would follow
does nothing, and the engine accepts the next CMD write. -/
def Obligations.SoftResetAbandonsTheCommand : Prop :=
  ∀ (s : State) (c w : Word) (rest : List Event), s.rstN = true → c.getLsbD 0 = true →
    s.events = .hostWrite (wordAddr 0x004) c :: .sequencer :: .hostWrite (wordAddr 0x00C) w :: rest →
    ∃ t u v, step s = .next t ∧ step t = .next u ∧ step u = .next v
      ∧ t.status.busy = false ∧ t.status.done = false ∧ t.status.errCode = 0 ∧ t.irq = false
      ∧ u = { t with events := u.events } ∧ v.status.busy = true ∧ v.cmdLatch = w

/-- Events that coincide take effect in either order (60_exceptions.md section 4). A soft reset and a completion end in
the reset state either way, and the two runs agree on everything but the model's draw counters. An ACK and a
completion end with DONE = 1 if the completion is second and with DONE = 0 if the ACK is. A hardware reset overrides
everything: the fall of rst_n and any other input end in the reset state in either order. (That every register has its
reset value and irq is low from the fall on is the model's choice of log entry 10; the spec gives the values at the
return to 1.) -/
def Obligations.CoincidentEventsInEitherOrder : Prop :=
  (∀ (s : State) (c : Word) (rest : List Event), s.rstN = true → s.status.busy = true →
    (c.getLsbD 0 = true →
      ∃ t u, Host.Core.run Sys2Proof.core 2
            { s with events := .hostWrite (wordAddr 0x004) c :: .sequencer :: rest } = .next t
        ∧ Host.Core.run Sys2Proof.core 2
            { s with events := .sequencer :: .hostWrite (wordAddr 0x004) c :: rest } = .next u
        ∧ InResetState t ∧ u = { t with draws := u.draws }
        ∧ ∀ n, t.ibufByte n = s.ibufByte n ∧ u.ibufByte n = s.ibufByte n)
    ∧ (c.getLsbD 0 = false → c.getLsbD 1 = true →
      (∃ t, Host.Core.run Sys2Proof.core 2
          { s with events := .hostWrite (wordAddr 0x004) c :: .sequencer :: rest } = .next t ∧ t.status.done = true)
      ∧ ∃ t, Host.Core.run Sys2Proof.core 2
          { s with events := .sequencer :: .hostWrite (wordAddr 0x004) c :: rest } = .next t ∧ t.status.done = false))
  ∧ (∀ (s : State) (rest : List Event), s.events = .resetPin false :: rest →
    ∃ t, step s = .next t ∧ t.rstN = false ∧ t.events = rest ∧ InResetState t)
  ∧ ∀ (s : State) (e : Event) (rest : List Event),
    ∃ t u, Host.Core.run Sys2Proof.core 2 { s with events := .resetPin false :: e :: rest } = .next t
      ∧ Host.Core.run Sys2Proof.core 2 { s with events := e :: .resetPin false :: rest } = .next u
      ∧ InResetState t ∧ InResetState u ∧ u.rstN = false

/-! ### Padding, container and modes as functions -/

/-- R113: unpad undoes pad on every string, and pad undoes unpad on every string that unpad accepts. -/
def Obligations.UnpadInvertsPad : Prop :=
  (∀ x : Bytes, unpad (pad x) = .ok x) ∧ ∀ y z : Bytes, unpad y = .ok z → pad z = y

/-- What unpad accepts (40_padding.md section 1): exactly the strings of whole blocks that end in N bytes of value N with
1 ≤ N ≤ 16, and it gives InvalidPadding for every other. -/
def Obligations.UnpadAcceptsExactlyPaddedStrings : Prop :=
  ∀ y : Bytes,
    (∀ z : Bytes, unpad y = .ok z ↔
      y.length % 16 = 0 ∧ ∃ n, 1 ≤ n ∧ n ≤ 16 ∧ y = z ++ List.replicate n (BitVec.ofNat 8 n))
    ∧ ((∀ z : Bytes, unpad y ≠ .ok z) → unpad y = .error .invalidPadding)

/-- R171: decode splits off the first 16 bytes, fails on a shorter string, and undoes encode. -/
def Obligations.ContainerSplit : Prop :=
  (∀ c : Bytes, c.length < 16 → splitContainer c = .error .malformedContainer)
  ∧ (∀ c : Bytes, 16 ≤ c.length → ∃ v : Block, splitContainer c = .ok (v, c.drop 16) ∧ v.toList = c.take 16)
  ∧ (∀ (v : Block) (ct : Bytes), splitContainer (containerOf v ct) = .ok (v, ct))

/-- CBC, block by block (41_modes.md section 2), for every primitive: C[i] = Enc(K, P[i] ⊕ C[i−1]) and
P[i] = Dec(K, C[i]) ⊕ C[i−1], with the IV before block 0. -/
def Obligations.CbcRecurrence : Prop :=
  ∀ (p : BlockPrimitive) (k : Key) (v : Block) (x : Bytes) (i : Nat), x.length % 16 = 0 → i < blockCount x →
    blk (fwd p .cbc k v x) i
      = (p.enc k (xorBlock (blockOf (blk x i)) (if i = 0 then v else blockOf (blk (fwd p .cbc k v x) (i - 1))))).toList
    ∧ blk (inv p .cbc k v x) i
      = (xorBlock (p.dec k (blockOf (blk x i))) (if i = 0 then v else blockOf (blk x (i - 1)))).toList

/-- CFB, block by block (41_modes.md section 3), for every primitive: the keystream block is the encipherment of the
previous ciphertext block, in both directions. -/
def Obligations.CfbRecurrence : Prop :=
  ∀ (p : BlockPrimitive) (k : Key) (v : Block) (x : Bytes) (i : Nat), i < blockCount x →
    blk (fwd p .cfb k v x) i
      = xorTruncated (blk x i) (p.enc k (if i = 0 then v else blockOf (blk (fwd p .cfb k v x) (i - 1))))
    ∧ blk (inv p .cfb k v x) i
      = xorTruncated (blk x i) (p.enc k (if i = 0 then v else blockOf (blk x (i - 1))))

/-- R138: the OFB keystream is the iterated encipherment of the IV, whatever the data. -/
def Obligations.OfbKeystream : Prop :=
  ∀ (p : BlockPrimitive) (k : Key) (v : Block) (x : Bytes),
    (∀ i, i < blockCount x → blk (fwd p .ofb k v x) i = xorTruncated (blk x i) ((p.enc k)^[i + 1] v))
    ∧ (fwd p .ofb k v x).length = x.length

/-- R141: the CTR keystream of block i is the encipherment of its counter block. -/
def Obligations.CtrKeystream : Prop :=
  ∀ (p : BlockPrimitive) (k : Key) (v : Block) (x : Bytes),
    (∀ i, i < blockCount x → blk (fwd p .ctr k v x) i = xorTruncated (blk x i) (p.enc k (ctrblk v i)))
    ∧ (fwd p .ctr k v x).length = x.length

/-- R140: the counter block of block i is the IV read as a big-endian number, plus i, mod 2^128, written big-endian; in
one command the counter wraps at most once. -/
def Obligations.CounterIsBigEndian : Prop :=
  (∀ (v : Block) (i : Nat), be (ctrblk v i).toList = (be v.toList + i) % 2 ^ 128)
  ∧ (∀ v : Block, ctrblk v 0 = v)
  ∧ ∀ (v : Block) (i : Nat), i < Config.ibufSize / 16 + 2 → i < 2 ^ 17 ∧ be v.toList + i < 2 * 2 ^ 128

/-- R139: OFB has one function for both directions, an involution. -/
def Obligations.OfbInvolution : Prop :=
  ∀ (p : BlockPrimitive) (k : Key) (v : Block) (x : Bytes),
    inv p .ofb k v x = fwd p .ofb k v x ∧ fwd p .ofb k v (fwd p .ofb k v x) = x

/-- R142: CTR has one function for both directions, an involution; with an IV of all ones its second keystream block is
the encipherment of zero. -/
def Obligations.CtrInvolution : Prop :=
  (∀ (p : BlockPrimitive) (k : Key) (v : Block) (x : Bytes),
    inv p .ctr k v x = fwd p .ctr k v x ∧ fwd p .ctr k v (fwd p .ctr k v x) = x)
  ∧ (∀ (p : BlockPrimitive) (k : Key) (x : Bytes), x.length = 32 →
    fwd p .ctr k (Vector.replicate 16 0xFF) x
      = xorTruncated (x.take 16) (p.enc k (Vector.replicate 16 0xFF))
        ++ xorTruncated (x.drop 16) (p.enc k (Vector.replicate 16 0)))

/-- R144: every transform keeps the length of admissible data. -/
def Obligations.TransformsKeepLength : Prop :=
  ∀ (p : BlockPrimitive) (m : Mode) (k : Key) (v : Block) (x : Bytes), Admissible m x →
    (fwd p m k v x).length = x.length ∧ (inv p m k v x).length = x.length

/-- R145: the inverse transform undoes the forward one on all admissible data, for every primitive that meets the law
of R7. -/
def Obligations.InverseUndoesForward : Prop :=
  ∀ (p : BlockPrimitive) (m : Mode) (k : Key) (v : Block) (x : Bytes), Admissible m x →
    inv p m k v (fwd p m k v x) = x

/-! ### The commands -/

/-- ENCRYPT completes (43_pipeline.md section 1, eight constructors): with the key declared, IVR declared where it is the
IV, and input that fits, the output is the IV and the forward transform of the (for CBC padded) input; one draw is taken
exactly where IVSRC = 0, and IVR and IVLEN are unchanged. -/
def Obligations.EncryptCompletes : Prop :=
  ∀ (i : Instr) (m : Mode) (src : IvSrc) (s : State), (i, m, src) ∈ encryptForms →
    s.keyLen = 32 → (src = .reg → s.ivLen = 16) → s.inLen.toNat ≤ Config.ibufSize →
    ∃ (t : State) (v : Block), exec i s = .next t
      ∧ v = (if src = .rng then Config.rngDraw s.draws.rng else s.iv)
      ∧ Succeeded s t (v.toList ++ fwd Config.primitive m s.key v (if m = .cbc then pad s.input else s.input))
          s.iv s.ivLen (if src = .rng then 1 else 0)

/-- DECRYPT.cfb, .ofb and .ctr complete (43_pipeline.md section 1): with the key declared and a container that fits, the
output is the inverse transform of the bytes after the first 16, under those 16 as the IV. -/
def Obligations.DecryptStreamCompletes : Prop :=
  ∀ (i : Instr) (m : Mode) (s : State), (i, m) ∈ decryptForms → m ≠ .cbc →
    s.keyLen = 32 → 16 ≤ s.inLen.toNat → s.inLen.toNat ≤ Config.ibufSize →
    ∃ t, exec i s = .next t
      ∧ Succeeded s t (inv Config.primitive m s.key (blockOf (s.input.take 16)) (s.input.drop 16)) s.iv s.ivLen 0

/-- DECRYPT.cbc completes (43_pipeline.md section 1) where the deciphered text is padded, with the text without its
padding; where it is not, it fails with InvalidPadding. -/
def Obligations.DecryptCbcCompletes : Prop :=
  ∀ s : State, s.keyLen = 32 → 16 ≤ s.inLen.toNat → s.inLen.toNat ≤ Config.ibufSize → s.inLen.toNat % 16 = 0 →
    (∀ y, unpad (inv Config.primitive .cbc s.key (blockOf (s.input.take 16)) (s.input.drop 16)) = .ok y →
      ∃ t, exec .decryptCbc s = .next t ∧ Succeeded s t y s.iv s.ivLen 0)
    ∧ (∀ e, unpad (inv Config.primitive .cbc s.key (blockOf (s.input.take 16)) (s.input.drop 16)) = .error e →
      ∃ t, exec .decryptCbc s = .next t ∧ Failed s t 3)

/-- XFORM_FWD and XFORM_INV complete (41_modes.md section 7, eight constructors): key and IVR declared, input that fits,
whole blocks for CBC; the output is the transform of the input under IVR, which is not advanced. -/
def Obligations.TransformCommandsComplete : Prop :=
  ∀ (i j : Instr) (m : Mode) (s : State), (i, m) ∈ xformFwdForms → (j, m) ∈ xformInvForms →
    s.keyLen = 32 → s.ivLen = 16 → s.inLen.toNat ≤ Config.ibufSize → (m = .cbc → s.inLen.toNat % 16 = 0) →
    (∃ t, exec i s = .next t ∧ Succeeded s t (fwd Config.primitive m s.key s.iv s.input) s.iv s.ivLen 0)
    ∧ (∃ t, exec j s = .next t ∧ Succeeded s t (inv Config.primitive m s.key s.iv s.input) s.iv s.ivLen 0)

/-- PAD completes on every input that fits, and UNPAD on every padded input that fits; on other input that fits
UNPAD fails with InvalidPadding (40_padding.md section 2). Neither reads a key or an IV. -/
def Obligations.PaddingCommandsComplete : Prop :=
  ∀ s : State, s.inLen.toNat ≤ Config.ibufSize →
    (∃ t, exec .padData s = .next t ∧ Succeeded s t (pad s.input) s.iv s.ivLen 0)
    ∧ (∀ y, unpad s.input = .ok y → ∃ t, exec .unpadData s = .next t ∧ Succeeded s t y s.iv s.ivLen 0)
    ∧ (∀ e, unpad s.input = .error e → ∃ t, exec .unpadData s = .next t ∧ Failed s t 3)

/-- ENCODE and DECODE complete (42_container.md section 2): ENCODE gives IVR and the input; DECODE gives the input after
its first 16 bytes, which go to IVR, and sets IVLEN to 16. -/
def Obligations.ContainerCommandsComplete : Prop :=
  ∀ s : State, s.inLen.toNat ≤ Config.ibufSize →
    (s.ivLen = 16 → ∃ t, exec .encodeContainer s = .next t ∧ Succeeded s t (s.iv.toList ++ s.input) s.iv s.ivLen 0)
    ∧ (16 ≤ s.inLen.toNat → ∃ (t : State) (v : Block), exec .decodeContainer s = .next t
        ∧ v.toList = s.input.take 16 ∧ Succeeded s t (s.input.drop 16) v 16 0)

/-- The four commands with MODE 4 to 7 complete in every state (60_exceptions.md section 1): their whole effect is
UnsupportedMode, code 1, whatever the registers hold. -/
def Obligations.UnsupportedModesComplete : Prop :=
  ∀ (s : State) (m : BitVec 3) (src : IvSrc),
    (∃ t, exec (.encryptNoMode m src) s = .next t ∧ Failed s t 1)
    ∧ (∃ t, exec (.decryptNoMode m) s = .next t ∧ Failed s t 1)
    ∧ (∃ t, exec (.xformFwdNoMode m) s = .next t ∧ Failed s t 1)
    ∧ (∃ t, exec (.xformInvNoMode m) s = .next t ∧ Failed s t 1)

/-- R205: an illegal word written to an idle engine is accepted (BUSY rises, CMD and LAST_OP record it) and completes with
IllegalCommand. -/
def Obligations.IllegalWordIsAcceptedAndFails : Prop :=
  ∀ (s : State) (w : Word) (rest : List Event), ¬ Legal w → s.rstN = true → s.status.busy = false →
    s.events = .hostWrite (wordAddr 0x00C) w :: .sequencer :: rest →
    ∃ t u, step s = .next t ∧ t.status.busy = true ∧ t.cmdLatch = w ∧ t.status.lastOp = w.extractLsb' 0 4
      ∧ step t = .next u ∧ u.status.errCode = 5 ∧ u.status.err = true ∧ u.status.outValid = false
      ∧ u.status.busy = false ∧ u.status.done = true ∧ u.cmdLatch = w ∧ u.status.lastOp = w.extractLsb' 0 4

/-- R207: for every word in CMDLATCH and all values of KEYLEN, IVLEN and IN_LEN, the first of the checks 1 to 7 that
applies is the error of the completion; where none applies, only UNPAD and DECRYPT.cbc can fail, and only with
InvalidPadding (check 8). -/
def Obligations.CheckOrder : Prop :=
  ∀ (s : State) (rest : List Event), CompletionNext s rest →
    (∀ c, precheck s.cmdLatch s.keyLen s.ivLen s.inLen.toNat = some c →
      ∃ t, step s = .next t ∧ Failed { s with events := rest } t c)
    ∧ (precheck s.cmdLatch s.keyLen s.ivLen s.inLen.toNat = none →
      ∃ t, step s = .next t
        ∧ ((∃ out v vl d, Succeeded { s with events := rest } t out v vl d)
          ∨ (s.cmdLatch = 0x06 ∨ s.cmdLatch = 0x02) ∧ Failed { s with events := rest } t 3))

/-- R211: a command, legal or not, that fails after its acceptance (so with OUT_VALID = 0 and OUT_LEN = 0) changes no
host-visible state outside STATUS, OUT_LEN and OBUF; OUT_LEN stays 0, and OUT_VALID stays 0. -/
def Obligations.FailedCommandLeavesNoPartialResult : Prop :=
  ∀ (s t : State) (rest : List Event), CompletionNext s rest → s.status.outValid = false → s.outLen = 0 →
    step s = .next t → t.status.outValid = false →
    t.status.err = true ∧ t.status.errCode ≠ 0 ∧ t.outLen = 0 ∧ t.iv = s.iv ∧ t.ivLen = s.ivLen
      ∧ Kept { s with events := rest } t ∧ ∀ n, t.obuf.read? n = none

/-- R183: the output length of every command that succeeds, and no output exceeds OBUF_SIZE. -/
def Obligations.OutputLengths : Prop :=
  ∀ (s t : State) (i : Instr), s.status.outValid = false → exec i s = .next t → t.status.outValid = true →
    (i ∈ [.encryptCbcRng, .encryptCbcReg] → t.outLen.toNat = 16 + 16 * (s.inLen.toNat / 16 + 1))
    ∧ (i ∈ [.encryptCfbRng, .encryptOfbRng, .encryptCtrRng, .encryptCfbReg, .encryptOfbReg, .encryptCtrReg,
          .encodeContainer] → t.outLen.toNat = 16 + s.inLen.toNat)
    ∧ (i = .decryptCbc → ∃ n, 1 ≤ n ∧ n ≤ 16 ∧ t.outLen.toNat + n + 16 = s.inLen.toNat)
    ∧ (i ∈ [.decryptCfb, .decryptOfb, .decryptCtr, .decodeContainer] → t.outLen.toNat + 16 = s.inLen.toNat)
    ∧ (i ∈ [.xformFwdCbc, .xformFwdCfb, .xformFwdOfb, .xformFwdCtr, .xformInvCbc, .xformInvCfb, .xformInvOfb,
          .xformInvCtr] → t.outLen.toNat = s.inLen.toNat)
    ∧ (i = .padData → t.outLen.toNat = 16 * (s.inLen.toNat / 16 + 1))
    ∧ (i = .unpadData → ∃ n, 1 ≤ n ∧ n ≤ 16 ∧ t.outLen.toNat + n = s.inLen.toNat)
    ∧ t.outLen.toNat ≤ Config.obufSize

/-- R184: what ENCRYPT gives, copied to IBUF under the same key and mode, DECRYPT gives back, for every input and both
IV sources, wherever the container fits IBUF; and it fits wherever IN_LEN ≤ IBUF_SIZE − 32. -/
def Obligations.EncryptDecryptRoundTrip : Prop :=
  ∀ (i j : Instr) (m : Mode) (src : IvSrc) (s t : State), (i, m, src) ∈ encryptForms → (j, m) ∈ decryptForms →
    s.status.outValid = false → exec i s = .next t → t.status.outValid = true →
    (∀ u : State, u.key = t.key → u.keyLen = t.keyLen → u.inLen = t.outLen → t.outLen.toNat ≤ Config.ibufSize →
      (∀ n, n < t.outLen.toNat → u.ibufByte n = t.obufByte n) →
      ∃ v, exec j u = .next v ∧ Succeeded u v s.input u.iv u.ivLen 0)
    ∧ (s.inLen.toNat + 32 ≤ Config.ibufSize → t.outLen.toNat ≤ Config.ibufSize)

/-- R99: a command's result depends only on the operands that its row of the table names: two states that agree on
IN_LEN and the input bytes, on K and KL, on V and VL and on the draw where the command reads them, complete with the same
status, length and output. -/
def Obligations.ResultDependsOnlyOnOperands : Prop :=
  ∀ (i : Instr) (s s' t t' : State), exec i s = .next t → exec i s' = .next t' →
    s'.inLen = s.inLen → (∀ n, n < s.inLen.toNat → s'.ibufByte n = s.ibufByte n) →
    (readsKey i = true → s'.key = s.key ∧ s'.keyLen = s.keyLen) →
    (readsIv i = true → s'.iv = s.iv ∧ s'.ivLen = s.ivLen) →
    (readsDraw i = true → s'.draws.rng = s.draws.rng) →
    s'.status = s.status → s'.outLen = s.outLen →
    t'.status = t.status ∧ t'.outLen = t.outLen ∧ t'.obuf = t.obuf
      ∧ (i = .decodeContainer → t.status.outValid = true → s.status.outValid = false → t'.iv = t.iv ∧ t'.ivLen = t.ivLen)

/-- No step depends on what CHAIN, CTR and the block index hold (10_state.md section 2): from two states that differ only
there, any step gives states that differ at most there. So the values the model gives them at reset and at a completion
(log entry 5) show nowhere. -/
def Obligations.WorkingStateIsNeverRead : Prop :=
  ∀ s s' : State, SameButWork s s' → ∃ t t', step s = .next t ∧ step s' = .next t' ∧ SameButWork t t'

/-- The key cannot be read back through the port (60_exceptions.md section 5): from two states that differ only in KEY,
any host access or reset gives the same h_rdata and states that differ at most in KEY. -/
def Obligations.KeyIsNotReadable : Prop :=
  ∀ s s' : State, SameButKey s s' →
    (∃ a w, s.events.head? = some (.hostWrite a w)) ∨ (∃ a, s.events.head? = some (.hostRead a))
      ∨ (∃ level, s.events.head? = some (.resetPin level)) →
    ∃ t t', step s = .next t ∧ step s' = .next t' ∧ SameButKey t t'

/-- After a reset (70_reset_and_hazards.md section 1), through a CMD write and the completion that follows it: a command
that reads the key or IVR fails with code 2, PAD of the empty input succeeds with 16 bytes of 0x10, UNPAD fails with
code 3, DECODE with code 4, every other legal word (MODE 4 to 7) with code 1 and an illegal word with code 5. The
completion starts from the state t that the acceptance left, which differs from the reset state only as an acceptance
does. -/
def Obligations.CommandsRightAfterReset : Prop :=
  ∀ (s : State) (w : Word) (rest : List Event), InResetState s → CommandNext s w rest →
    ∃ t u : State, step s = .next t ∧ step t = .next u
      ∧ t = { s.accept w with events := .sequencer :: rest } ∧ t.status.busy = true
      ∧ (∀ i : Instr, WellFormed i → readsKey i = true ∨ readsIv i = true → w = encode i →
          Failed { t with events := rest } u 2)
      ∧ (w = encode .padData → Succeeded { t with events := rest } u (List.replicate 16 0x10) s.iv s.ivLen 0)
      ∧ (w = encode .unpadData → Failed { t with events := rest } u 3)
      ∧ (w = encode .decodeContainer → Failed { t with events := rest } u 4)
      ∧ (w ∈ unsupportedWords → Failed { t with events := rest } u 1)
      ∧ (¬ Legal w → Failed { t with events := rest } u 5)

/-- R43: a completed ENCRYPT rng leaves its drawn IV in the first 16 bytes of the container in OBUF and keeps no copy of
it: what was drawn, and how many draws came before, shows nowhere else in the state that the command leaves. -/
def Obligations.DrawnIvIsNotKept : Prop :=
  ∀ (i : Instr) (m : Mode) (s : State), (i, m) ∈ rngForms →
    (s.keyLen = 32 → s.inLen.toNat ≤ Config.ibufSize →
      ∃ t, exec i s = .next t ∧ 16 ≤ t.outLen.toNat
        ∧ (∀ n, (h : n < 16) → t.obufByte n = (Config.rngDraw s.draws.rng)[n])
        ∧ t.iv = s.iv ∧ t.ivLen = s.ivLen ∧ t.draws.rng = s.draws.rng + 1)
    ∧ ∀ r : Nat, ∃ t u : State, exec i s = .next t ∧ exec i { s with draws := { s.draws with rng := r } } = .next u
        ∧ u = { t with obuf := u.obuf, draws := { t.draws with rng := u.draws.rng } }
end

