-- ==== Sys2Proof/Laws/Bytes.lean ====
section
/-! SUPPORT. Byte lanes, blocks as byte strings, XOR with truncation, and the big-endian counter. -/

namespace Sys2Proof.Machine

/-! ### The capacity parameter -/

theorem Config.ibufSize_ge : 32 ≤ Config.ibufSize := by unfold Config.ibufSize; omega

theorem Config.ibufSize_le : Config.ibufSize ≤ 1048544 := by
  have := Config.extraBlocks.isLt
  unfold Config.ibufSize
  omega

theorem Config.ibufSize_mod : Config.ibufSize % 16 = 0 := by unfold Config.ibufSize; omega

theorem Config.obufSize_eq : Config.obufSize = Config.ibufSize + 32 := rfl

/-! ### Blocks and byte strings -/

@[simp] theorem blockOf_getElem (x : Bytes) (j : Nat) (h : j < 16) : (blockOf x)[j] = x.getD j 0 := by
  simp [blockOf]

theorem toList_blockOf (x : Bytes) (h : x.length = 16) : (blockOf x).toList = x := by
  apply List.ext_getElem
  · simp [h]
  · intro j h1 h2
    simp [h2]

theorem toList_blockOf_take (x : Bytes) (h : 16 ≤ x.length) : (blockOf (x.take 16)).toList = x.take 16 :=
  toList_blockOf _ (by simp [h])

@[simp] theorem blockOf_toList (b : Block) : blockOf b.toList = b := by
  ext j hj
  simp [hj]

@[simp] theorem xorBlock_getElem (a b : Block) (j : Nat) (h : j < 16) : (xorBlock a b)[j] = a[j] ^^^ b[j] := by
  simp [xorBlock]

@[simp] theorem xorBlock_cancel (a b : Block) : xorBlock (xorBlock a b) b = a := by
  apply Vector.ext
  intro j hj
  rw [xorBlock_getElem _ _ _ hj, xorBlock_getElem _ _ _ hj, BitVec.xor_assoc, BitVec.xor_self, BitVec.xor_zero]

@[simp] theorem setLanes_getElem {n : Nat} (v : Vector Byte n) (k : Nat) (w : Word) (j : Nat) (h : j < n) :
    (setLanes v k w)[j] = if j / 4 = k then lane w (j % 4) else v[j] := by
  simp [setLanes]

/-! ### XOR with truncation -/

theorem length_xorTruncated (d : Bytes) (s : Block) (h : d.length ≤ 16) : (xorTruncated d s).length = d.length := by
  simp [xorTruncated, xorBytes, h]

theorem getElem_xorTruncated (d : Bytes) (s : Block) (h : d.length ≤ 16) (j : Nat) (hj : j < d.length) :
    (xorTruncated d s)[j]'(by rw [length_xorTruncated d s h]; exact hj) = d[j] ^^^ s[j] := by
  simp [xorTruncated, xorBytes]

theorem xorTruncated_cancel (d : Bytes) (s : Block) (h : d.length ≤ 16) :
    xorTruncated (xorTruncated d s) s = d := by
  have h1 := length_xorTruncated d s h
  have h2 := length_xorTruncated (xorTruncated d s) s (by omega)
  apply List.ext_getElem (by omega)
  intro j ha hb
  rw [getElem_xorTruncated _ s (by omega) j (by omega), getElem_xorTruncated d s h j hb, BitVec.xor_assoc,
    BitVec.xor_self, BitVec.xor_zero]

/-! ### Words and lanes -/

theorem lane_laneWord (f : Nat → Byte) (j : Nat) (h : j < 4) : lane (laneWord f) j = f j := by
  have : j = 0 ∨ j = 1 ∨ j = 2 ∨ j = 3 := by omega
  rcases this with rfl | rfl | rfl | rfl <;>
  · apply BitVec.eq_of_getLsbD_eq
    intro i hi
    simp only [lane, laneWord, BitVec.getLsbD_extractLsb', BitVec.getLsbD_or, BitVec.getLsbD_shiftLeft,
      BitVec.getLsbD_setWidth]
    have : i = 0 ∨ i = 1 ∨ i = 2 ∨ i = 3 ∨ i = 4 ∨ i = 5 ∨ i = 6 ∨ i = 7 := by omega
    rcases this with rfl | rfl | rfl | rfl | rfl | rfl | rfl | rfl <;> simp

theorem le32_laneWord (f : Nat → Byte) : le32 (laneWord f) = [f 0, f 1, f 2, f 3] := by
  simp [le32, lane_laneWord]

/-! ### The big-endian counter -/

theorem be_foldl (x : Bytes) (a : Nat) :
    x.foldl (fun acc b => 256 * acc + b.toNat) a = a * 256 ^ x.length + be x := by
  induction x generalizing a with
  | nil => simp [be]
  | cons b rest ih =>
    simp only [List.foldl_cons, List.length_cons, be, ih (256 * a + b.toNat), ih (256 * 0 + b.toNat)]
    ring

theorem be_cons (b : Byte) (x : Bytes) : be (b :: x) = b.toNat * 256 ^ x.length + be x := by
  have := be_foldl x (256 * 0 + b.toNat)
  simpa [be] using this

theorem be_lt (x : Bytes) : be x < 256 ^ x.length := by
  induction x with
  | nil => simp [be]
  | cons b rest ih =>
    rw [be_cons, List.length_cons, Nat.pow_succ]
    have hb : b.toNat ≤ 255 := by have := b.isLt; omega
    have := Nat.mul_le_mul_right (256 ^ rest.length) hb
    omega

/-- Byte j of a big-endian number. -/
theorem be_digit (x : Bytes) (j : Nat) (h : j < x.length) :
    be x / 256 ^ (x.length - 1 - j) % 256 = x[j].toNat := by
  induction x generalizing j with
  | nil => simp at h
  | cons b rest ih =>
    rw [be_cons]
    have hlt := be_lt rest
    cases j with
    | zero =>
      simp only [List.length_cons, Nat.add_sub_cancel, Nat.sub_zero, List.getElem_cons_zero]
      rw [Nat.add_comm, Nat.add_mul_div_right _ _ (by positivity), Nat.div_eq_of_lt hlt, Nat.zero_add]
      exact Nat.mod_eq_of_lt b.isLt
    | succ j =>
      have hj : j < rest.length := by simpa using h
      have he : (b :: rest).length - 1 - (j + 1) = rest.length - 1 - j := by simp only [List.length_cons]; omega
      rw [he, List.getElem_cons_succ, ← ih j hj]
      have hp : 256 ^ rest.length = 256 ^ (rest.length - 1 - j) * (256 * 256 ^ j) := by
        rw [← Nat.pow_succ', ← Nat.pow_add]
        congr 1
        omega
      rw [hp, ← Nat.mul_assoc, Nat.mul_comm (b.toNat), Nat.mul_assoc,
        Nat.add_comm, Nat.add_mul_div_left _ _ (by positivity)]
      have : b.toNat * (256 * 256 ^ j) = 256 * (b.toNat * 256 ^ j) := by ring
      rw [this, Nat.add_mul_mod_self_left]

theorem be_block_lt (v : Block) : be v.toList < 2 ^ 128 := by
  have := be_lt v.toList
  simpa using this

theorem toBe16_getElem (c : BitVec 128) (j : Nat) (h : j < 16) :
    (toBe16 c)[j] = c.extractLsb' (8 * (15 - j)) 8 := by
  simp [toBe16]

theorem toBe16_be (v : Block) : toBe16 (BitVec.ofNat 128 (be v.toList)) = v := by
  apply Vector.ext
  intro j hj
  apply BitVec.eq_of_toNat_eq
  have hd := be_digit v.toList j (by simpa using hj)
  have hb := be_block_lt v
  simp only [Vector.length_toList, Vector.getElem_toList] at hd
  rw [toBe16_getElem _ _ hj, BitVec.extractLsb'_toNat, BitVec.toNat_ofNat, Nat.mod_eq_of_lt hb,
    Nat.shiftRight_eq_div_pow, ← hd]
  have : (2 : Nat) ^ (8 * (15 - j)) = 256 ^ (16 - 1 - j) := by
    rw [Nat.pow_mul]
  rw [this]

theorem be_toBe16 (c : BitVec 128) : be (toBe16 c).toList = c.toNat := by
  have h : toBe16 (BitVec.ofNat 128 (be (toBe16 c).toList)) = toBe16 c := toBe16_be _
  have hc : BitVec.ofNat 128 (be (toBe16 c).toList) = c := by
    apply BitVec.eq_of_getLsbD_eq
    intro i hi
    have hj : 15 - i / 8 < 16 := by omega
    have hv : (toBe16 (BitVec.ofNat 128 (be (toBe16 c).toList)))[15 - i / 8] = (toBe16 c)[15 - i / 8] := by rw [h]
    rw [toBe16_getElem _ _ hj, toBe16_getElem _ _ hj] at hv
    have hbit := congrArg (fun b : BitVec 8 => b.getLsbD (i % 8)) hv
    simp only [BitVec.getLsbD_extractLsb'] at hbit
    have h1 : 8 * (15 - (15 - i / 8)) + i % 8 = i := by omega
    have h2 : i % 8 < 8 := by omega
    simpa [h1, h2] using hbit
  calc be (toBe16 c).toList = (BitVec.ofNat 128 (be (toBe16 c).toList)).toNat := by
        rw [BitVec.toNat_ofNat, Nat.mod_eq_of_lt (be_block_lt _)]
    _ = c.toNat := by rw [hc]

/-! ### Blocks of a string -/

theorem length_blk_le (x : Bytes) (i : Nat) : (blk x i).length ≤ 16 := by simp [blk]

theorem blockCount_append (c x : Bytes) (h : c.length = 16) : blockCount (c ++ x) = blockCount x + 1 := by
  simp only [blockCount, List.length_append]; omega

@[simp] theorem blk_append_zero (c x : Bytes) (h : c.length = 16) : blk (c ++ x) 0 = c := by
  simp [blk, ← h]

theorem blk_append_succ (c x : Bytes) (i : Nat) (h : c.length = 16) : blk (c ++ x) (i + 1) = blk x i := by
  have : 16 * (i + 1) = c.length + 16 * i := by omega
  unfold blk
  rw [this, ← List.drop_drop, List.drop_left]

@[simp] theorem blocks_nil : blocks [] = [] := rfl

theorem blocks_append (c x : Bytes) (h : c.length = 16) : blocks (c ++ x) = c :: blocks x := by
  unfold blocks
  rw [blockCount_append c x h, List.range_succ_eq_map, List.map_cons, List.map_map, blk_append_zero c x h]
  congr 1
  apply List.map_congr_left
  intro i _
  exact blk_append_succ c x i h

theorem blocks_short (x : Bytes) (h0 : 0 < x.length) (h : x.length ≤ 16) : blocks x = [x] := by
  have hn : blockCount x = 1 := by simp only [blockCount]; omega
  have hb : blk x 0 = x := by
    unfold blk
    rw [Nat.mul_zero, List.drop_zero, List.take_of_length_le h]
  rw [blocks, hn]
  simp [hb]

/-- Induction over a string by whole blocks, with an empty or short rest. -/
theorem blocks_induction {P : Bytes → Prop} (nil : P []) (short : ∀ x, 0 < x.length → x.length < 16 → P x)
    (cons : ∀ c x, c.length = 16 → P x → P (c ++ x)) : ∀ x, P x := by
  suffices ∀ n x, x.length ≤ n → P x from fun x => this x.length x (Nat.le_refl _)
  intro n
  induction n with
  | zero => intro x h; rw [List.length_eq_zero_iff.mp (Nat.le_zero.mp h)]; exact nil
  | succ n ih =>
    intro x h
    by_cases h0 : x.length = 0
    · rw [List.length_eq_zero_iff.mp h0]; exact nil
    by_cases h16 : x.length < 16
    · exact short x (by omega) h16
    · rw [← List.take_append_drop 16 x]
      refine cons _ _ (by simp; omega) (ih _ ?_)
      rw [List.length_drop]
      omega

/-- Induction over a string of whole blocks. -/
theorem blocks_induction_aligned {P : Bytes → Prop} (nil : P []) (cons : ∀ c x, c.length = 16 → P x → P (c ++ x)) :
    ∀ x : Bytes, x.length % 16 = 0 → P x := by
  refine blocks_induction (fun _ => nil) (fun x h0 h h' => ?_) (fun c x hc ih h => cons c x hc (ih ?_))
  · omega
  · rw [List.length_append] at h; omega

end Sys2Proof.Machine
end

