-- ==== Sys2Proof/Laws/Memory.lean ====
section
/-! SUPPORT. Byte memories: read after write, the canonical form and the size under every operation, and the memory
that holds a given string. -/

namespace Sys2Proof.Machine

@[simp] theorem Memory.read?_nil (n : Nat) : Memory.read? [] n = none := rfl

theorem Memory.read?_cons (k : Nat) (b : Byte) (rest : Memory) (n : Nat) :
    Memory.read? ((k, b) :: rest) n = if k = n then some b else Memory.read? rest n := rfl

@[simp] theorem Memory.read?_write_same (m : Memory) (n : Nat) (b : Byte) : (m.write n b).read? n = some b := by
  induction m with
  | nil => simp [Memory.write, Memory.read?]
  | cons c rest ih =>
    obtain ⟨k, x⟩ := c
    simp only [Memory.write]
    split
    · simp [Memory.read?]
    · split
      · simp [Memory.read?]
      · next h => simp [Memory.read?, ih, Ne.symm h]

theorem Memory.read?_write_other (m : Memory) (n i : Nat) (b : Byte) (h : i ≠ n) :
    (m.write n b).read? i = m.read? i := by
  induction m with
  | nil => simp [Memory.write, Memory.read?, Ne.symm h, Memory.unlisted]
  | cons c rest ih =>
    obtain ⟨k, x⟩ := c
    simp only [Memory.write]
    split
    · simp [Memory.read?, Ne.symm h]
    · split
      · next hk => subst hk; simp [Memory.read?, Ne.symm h]
      · simp [Memory.read?, ih]

theorem Memory.read?_write (m : Memory) (n i : Nat) (b : Byte) :
    (m.write n b).read? i = if i = n then some b else m.read? i := by
  split
  · next h => subst h; simp
  · next h => exact Memory.read?_write_other m n i b h

/-- A write adds no index but its own. -/
theorem Memory.mem_write {m : Memory} {n : Nat} {b : Byte} {c : Host.Cell} (h : c ∈ m.write n b) :
    c = (n, b) ∨ c ∈ m := by
  induction m with
  | nil => simpa [Memory.write] using h
  | cons d rest ih =>
    obtain ⟨k, x⟩ := d
    simp only [Memory.write] at h
    split at h
    · simpa using h
    · split at h
      · rcases List.mem_cons.mp h with h | h
        · exact .inl h
        · exact .inr (List.mem_cons_of_mem _ h)
      · rcases List.mem_cons.mp h with h | h
        · exact .inr (h ▸ List.mem_cons_self)
        · exact (ih h).imp id (List.mem_cons_of_mem _)

/-- No entry equals what an unlisted index reads as: an entry is a byte, and an unlisted index has none. -/
theorem Memory.listed_ne_unlisted (b : Byte) : some b ≠ Memory.unlisted := by simp [Memory.unlisted]

theorem Memory.wf_iff (m : Memory) : m.wf ↔ m.Pairwise (fun a b => a.1 < b.1) :=
  ⟨fun h => h.1, fun h => ⟨h, fun c _ => Memory.listed_ne_unlisted c.2⟩⟩

theorem Memory.wf_write {m : Memory} (n : Nat) (b : Byte) (h : m.wf) : (m.write n b).wf := by
  rw [Memory.wf_iff] at *
  induction m with
  | nil => simp [Memory.write]
  | cons c rest ih =>
    obtain ⟨k, x⟩ := c
    obtain ⟨hk, hrest⟩ := List.pairwise_cons.mp h
    simp only [Memory.write]
    split
    · next hn =>
      refine List.pairwise_cons.mpr ⟨?_, h⟩
      intro d hd
      rcases List.mem_cons.mp hd with rfl | hd
      · exact hn
      · exact Nat.lt_trans hn (hk d hd)
    · split
      · next hn => subst hn; exact List.pairwise_cons.mpr ⟨hk, hrest⟩
      · next h1 h2 =>
        refine List.pairwise_cons.mpr ⟨?_, ih hrest⟩
        intro d hd
        rcases Memory.mem_write hd with rfl | hd
        · show k < n
          omega
        · exact hk d hd

theorem Memory.fits_write {m : Memory} {size : Nat} (n : Nat) (b : Byte) (h : m.Fits size) (hn : n < size) :
    (m.write n b).Fits size :=
  ⟨Memory.wf_write n b h.wf, fun c hc => by
    rcases Memory.mem_write hc with rfl | hc
    · exact hn
    · exact h.below c hc⟩

theorem Memory.fits_writeWord {m : Memory} {size : Nat} (k : Nat) (w : Word) (h : m.Fits size) (hk : 4 * k + 3 < size) :
    (m.writeWord k w).Fits size := by
  unfold Memory.writeWord
  exact Memory.fits_write _ _ (Memory.fits_write _ _ (Memory.fits_write _ _ (Memory.fits_write _ _ h (by omega))
    (by omega)) (by omega)) hk

theorem Memory.fits_nil (size : Nat) : Memory.Fits [] size := ⟨by simp [Memory.wf_iff], by simp⟩

/-- What a word write does to one byte. -/
theorem Memory.read?_writeWord (m : Memory) (k : Nat) (w : Word) (n : Nat) :
    (m.writeWord k w).read? n =
      if 4 * k ≤ n ∧ n < 4 * k + 4 then some (lane w (n - 4 * k)) else m.read? n := by
  unfold Memory.writeWord
  simp only [Memory.read?_write]
  by_cases h3 : n = 4 * k + 3
  · subst h3; simp
  by_cases h2 : n = 4 * k + 2
  · subst h2; simp
  by_cases h1 : n = 4 * k + 1
  · subst h1; simp
  by_cases h0 : n = 4 * k
  · subst h0; simp
  · have : ¬(4 * k ≤ n ∧ n < 4 * k + 4) := by omega
    simp [h0, h1, h2, h3, this]

/-! ### The memory of a string -/

theorem Memory.read?_ofBytes (x : Bytes) (k n : Nat) :
    (Memory.ofBytes k x).read? n = if k ≤ n then x[n - k]? else none := by
  induction x generalizing k with
  | nil => simp [Memory.ofBytes]
  | cons b rest ih =>
    simp only [Memory.ofBytes, Memory.read?, ih]
    by_cases h : k = n
    · subst h; simp
    · by_cases h' : k ≤ n
      · have : n - k = (n - (k + 1)) + 1 := by omega
        rw [if_neg h, if_pos (by omega), if_pos h', this]
        simp
      · rw [if_neg h, if_neg (by omega), if_neg h']

theorem Memory.mem_ofBytes {x : Bytes} {k : Nat} {c : Host.Cell} (h : c ∈ Memory.ofBytes k x) :
    k ≤ c.1 ∧ c.1 < k + x.length := by
  induction x generalizing k with
  | nil => simp [Memory.ofBytes] at h
  | cons b rest ih =>
    rcases List.mem_cons.mp h with rfl | h
    · simp
    · have := ih h
      simp only [List.length_cons]
      omega

theorem Memory.wf_ofBytes (x : Bytes) (k : Nat) : (Memory.ofBytes k x).wf := by
  rw [Memory.wf_iff]
  induction x generalizing k with
  | nil => simp [Memory.ofBytes]
  | cons b rest ih => exact List.pairwise_cons.mpr ⟨fun c hc => (Memory.mem_ofBytes hc).1, ih (k + 1)⟩

theorem Memory.fits_ofBytes {x : Bytes} {size : Nat} (h : x.length ≤ size) : (Memory.ofBytes 0 x).Fits size :=
  ⟨Memory.wf_ofBytes x 0, fun c hc => by have := Memory.mem_ofBytes hc; omega⟩

end Sys2Proof.Machine
end

