-- ==== Sys2Proof/Laws/State.lean ====
section
/-! SUPPORT. One lemma for each field of State and each named update of it, true by rfl, so that no later proof
unfolds a record update; the same for the STATUS fields and the STATUS updates. -/

namespace Sys2Proof.Machine

/-! ### State.forgetObuf -/

@[simp] theorem State.forgetObuf_status (s : State) : (s.forgetObuf).status = s.status := rfl
@[simp] theorem State.forgetObuf_cmdLatch (s : State) : (s.forgetObuf).cmdLatch = s.cmdLatch := rfl
@[simp] theorem State.forgetObuf_keyLen (s : State) : (s.forgetObuf).keyLen = s.keyLen := rfl
@[simp] theorem State.forgetObuf_ivLen (s : State) : (s.forgetObuf).ivLen = s.ivLen := rfl
@[simp] theorem State.forgetObuf_inLen (s : State) : (s.forgetObuf).inLen = s.inLen := rfl
@[simp] theorem State.forgetObuf_outLen (s : State) : (s.forgetObuf).outLen = s.outLen := rfl
@[simp] theorem State.forgetObuf_doneIe (s : State) : (s.forgetObuf).doneIe = s.doneIe := rfl
@[simp] theorem State.forgetObuf_key (s : State) : (s.forgetObuf).key = s.key := rfl
@[simp] theorem State.forgetObuf_iv (s : State) : (s.forgetObuf).iv = s.iv := rfl
@[simp] theorem State.forgetObuf_ibuf (s : State) : (s.forgetObuf).ibuf = s.ibuf := rfl
@[simp] theorem State.forgetObuf_obuf (s : State) : (s.forgetObuf).obuf = [] := rfl
@[simp] theorem State.forgetObuf_work (s : State) : (s.forgetObuf).work = s.work := rfl
@[simp] theorem State.forgetObuf_draws (s : State) :
    (s.forgetObuf).draws =
      { s.draws with obuf := s.draws.obuf + 1 } := rfl
@[simp] theorem State.forgetObuf_rstN (s : State) : (s.forgetObuf).rstN = s.rstN := rfl
@[simp] theorem State.forgetObuf_rdata (s : State) : (s.forgetObuf).rdata = s.rdata := rfl
@[simp] theorem State.forgetObuf_events (s : State) : (s.forgetObuf).events = s.events := rfl

/-! ### State.accept -/

@[simp] theorem State.accept_status (s : State) (w : Word) : (s.accept w).status = s.status.accept (opField w) := rfl
@[simp] theorem State.accept_cmdLatch (s : State) (w : Word) : (s.accept w).cmdLatch = w := rfl
@[simp] theorem State.accept_keyLen (s : State) (w : Word) : (s.accept w).keyLen = s.keyLen := rfl
@[simp] theorem State.accept_ivLen (s : State) (w : Word) : (s.accept w).ivLen = s.ivLen := rfl
@[simp] theorem State.accept_inLen (s : State) (w : Word) : (s.accept w).inLen = s.inLen := rfl
@[simp] theorem State.accept_outLen (s : State) (w : Word) : (s.accept w).outLen = 0 := rfl
@[simp] theorem State.accept_doneIe (s : State) (w : Word) : (s.accept w).doneIe = s.doneIe := rfl
@[simp] theorem State.accept_key (s : State) (w : Word) : (s.accept w).key = s.key := rfl
@[simp] theorem State.accept_iv (s : State) (w : Word) : (s.accept w).iv = s.iv := rfl
@[simp] theorem State.accept_ibuf (s : State) (w : Word) : (s.accept w).ibuf = s.ibuf := rfl
@[simp] theorem State.accept_obuf (s : State) (w : Word) : (s.accept w).obuf = [] := rfl
@[simp] theorem State.accept_work (s : State) (w : Word) : (s.accept w).work = s.work := rfl
@[simp] theorem State.accept_draws (s : State) (w : Word) :
    (s.accept w).draws =
      { s.draws with obuf := s.draws.obuf + 1 } := rfl
@[simp] theorem State.accept_rstN (s : State) (w : Word) : (s.accept w).rstN = s.rstN := rfl
@[simp] theorem State.accept_rdata (s : State) (w : Word) : (s.accept w).rdata = s.rdata := rfl
@[simp] theorem State.accept_events (s : State) (w : Word) : (s.accept w).events = s.events := rfl

/-! ### State.succeed -/

@[simp] theorem State.succeed_status (s : State) (o : Output) : (s.succeed o).status = s.status.succeed := rfl
@[simp] theorem State.succeed_cmdLatch (s : State) (o : Output) : (s.succeed o).cmdLatch = s.cmdLatch := rfl
@[simp] theorem State.succeed_keyLen (s : State) (o : Output) : (s.succeed o).keyLen = s.keyLen := rfl
@[simp] theorem State.succeed_ivLen (s : State) (o : Output) :
    (s.succeed o).ivLen =
      if o.ivOut.isSome then 16 else s.ivLen := rfl
@[simp] theorem State.succeed_inLen (s : State) (o : Output) : (s.succeed o).inLen = s.inLen := rfl
@[simp] theorem State.succeed_outLen (s : State) (o : Output) :
    (s.succeed o).outLen =
      BitVec.ofNat 32 o.out.length := rfl
@[simp] theorem State.succeed_doneIe (s : State) (o : Output) : (s.succeed o).doneIe = s.doneIe := rfl
@[simp] theorem State.succeed_key (s : State) (o : Output) : (s.succeed o).key = s.key := rfl
@[simp] theorem State.succeed_iv (s : State) (o : Output) : (s.succeed o).iv = o.ivOut.getD s.iv := rfl
@[simp] theorem State.succeed_ibuf (s : State) (o : Output) : (s.succeed o).ibuf = s.ibuf := rfl
@[simp] theorem State.succeed_obuf (s : State) (o : Output) : (s.succeed o).obuf = Memory.ofBytes 0 o.out := rfl
@[simp] theorem State.succeed_work (s : State) (o : Output) : (s.succeed o).work = Work.discarded := rfl
@[simp] theorem State.succeed_draws (s : State) (o : Output) :
    (s.succeed o).draws =
      { s.draws with obuf := s.draws.obuf + 1, rng := if o.drew then s.draws.rng + 1 else s.draws.rng } := rfl
@[simp] theorem State.succeed_rstN (s : State) (o : Output) : (s.succeed o).rstN = s.rstN := rfl
@[simp] theorem State.succeed_rdata (s : State) (o : Output) : (s.succeed o).rdata = s.rdata := rfl
@[simp] theorem State.succeed_events (s : State) (o : Output) : (s.succeed o).events = s.events := rfl

/-! ### State.fail -/

@[simp] theorem State.fail_status (s : State) (e : ErrorKind) : (s.fail e).status = s.status.fail e := rfl
@[simp] theorem State.fail_cmdLatch (s : State) (e : ErrorKind) : (s.fail e).cmdLatch = s.cmdLatch := rfl
@[simp] theorem State.fail_keyLen (s : State) (e : ErrorKind) : (s.fail e).keyLen = s.keyLen := rfl
@[simp] theorem State.fail_ivLen (s : State) (e : ErrorKind) : (s.fail e).ivLen = s.ivLen := rfl
@[simp] theorem State.fail_inLen (s : State) (e : ErrorKind) : (s.fail e).inLen = s.inLen := rfl
@[simp] theorem State.fail_outLen (s : State) (e : ErrorKind) : (s.fail e).outLen = s.outLen := rfl
@[simp] theorem State.fail_doneIe (s : State) (e : ErrorKind) : (s.fail e).doneIe = s.doneIe := rfl
@[simp] theorem State.fail_key (s : State) (e : ErrorKind) : (s.fail e).key = s.key := rfl
@[simp] theorem State.fail_iv (s : State) (e : ErrorKind) : (s.fail e).iv = s.iv := rfl
@[simp] theorem State.fail_ibuf (s : State) (e : ErrorKind) : (s.fail e).ibuf = s.ibuf := rfl
@[simp] theorem State.fail_obuf (s : State) (e : ErrorKind) : (s.fail e).obuf = [] := rfl
@[simp] theorem State.fail_work (s : State) (e : ErrorKind) : (s.fail e).work = Work.discarded := rfl
@[simp] theorem State.fail_draws (s : State) (e : ErrorKind) :
    (s.fail e).draws =
      { s.draws with obuf := s.draws.obuf + 1 } := rfl
@[simp] theorem State.fail_rstN (s : State) (e : ErrorKind) : (s.fail e).rstN = s.rstN := rfl
@[simp] theorem State.fail_rdata (s : State) (e : ErrorKind) : (s.fail e).rdata = s.rdata := rfl
@[simp] theorem State.fail_events (s : State) (e : ErrorKind) : (s.fail e).events = s.events := rfl

/-! ### State.acknowledge -/

@[simp] theorem State.acknowledge_status (s : State) : (s.acknowledge).status = s.status.ack := rfl
@[simp] theorem State.acknowledge_cmdLatch (s : State) : (s.acknowledge).cmdLatch = s.cmdLatch := rfl
@[simp] theorem State.acknowledge_keyLen (s : State) : (s.acknowledge).keyLen = s.keyLen := rfl
@[simp] theorem State.acknowledge_ivLen (s : State) : (s.acknowledge).ivLen = s.ivLen := rfl
@[simp] theorem State.acknowledge_inLen (s : State) : (s.acknowledge).inLen = s.inLen := rfl
@[simp] theorem State.acknowledge_outLen (s : State) : (s.acknowledge).outLen = s.outLen := rfl
@[simp] theorem State.acknowledge_doneIe (s : State) : (s.acknowledge).doneIe = s.doneIe := rfl
@[simp] theorem State.acknowledge_key (s : State) : (s.acknowledge).key = s.key := rfl
@[simp] theorem State.acknowledge_iv (s : State) : (s.acknowledge).iv = s.iv := rfl
@[simp] theorem State.acknowledge_ibuf (s : State) : (s.acknowledge).ibuf = s.ibuf := rfl
@[simp] theorem State.acknowledge_obuf (s : State) : (s.acknowledge).obuf = s.obuf := rfl
@[simp] theorem State.acknowledge_work (s : State) : (s.acknowledge).work = s.work := rfl
@[simp] theorem State.acknowledge_draws (s : State) : (s.acknowledge).draws = s.draws := rfl
@[simp] theorem State.acknowledge_rstN (s : State) : (s.acknowledge).rstN = s.rstN := rfl
@[simp] theorem State.acknowledge_rdata (s : State) : (s.acknowledge).rdata = s.rdata := rfl
@[simp] theorem State.acknowledge_events (s : State) : (s.acknowledge).events = s.events := rfl

/-! ### State.readFree -/

@[simp] theorem State.readFree_status (s : State) : (s.readFree).status = s.status := rfl
@[simp] theorem State.readFree_cmdLatch (s : State) : (s.readFree).cmdLatch = s.cmdLatch := rfl
@[simp] theorem State.readFree_keyLen (s : State) : (s.readFree).keyLen = s.keyLen := rfl
@[simp] theorem State.readFree_ivLen (s : State) : (s.readFree).ivLen = s.ivLen := rfl
@[simp] theorem State.readFree_inLen (s : State) : (s.readFree).inLen = s.inLen := rfl
@[simp] theorem State.readFree_outLen (s : State) : (s.readFree).outLen = s.outLen := rfl
@[simp] theorem State.readFree_doneIe (s : State) : (s.readFree).doneIe = s.doneIe := rfl
@[simp] theorem State.readFree_key (s : State) : (s.readFree).key = s.key := rfl
@[simp] theorem State.readFree_iv (s : State) : (s.readFree).iv = s.iv := rfl
@[simp] theorem State.readFree_ibuf (s : State) : (s.readFree).ibuf = s.ibuf := rfl
@[simp] theorem State.readFree_obuf (s : State) : (s.readFree).obuf = s.obuf := rfl
@[simp] theorem State.readFree_work (s : State) : (s.readFree).work = s.work := rfl
@[simp] theorem State.readFree_draws (s : State) :
    (s.readFree).draws =
      { s.draws with read := s.draws.read + 1 } := rfl
@[simp] theorem State.readFree_rstN (s : State) : (s.readFree).rstN = s.rstN := rfl
@[simp] theorem State.readFree_rdata (s : State) : (s.readFree).rdata = Config.freeReadWord s.draws.read := rfl
@[simp] theorem State.readFree_events (s : State) : (s.readFree).events = s.events := rfl

/-! ### State.hardReset -/

@[simp] theorem State.hardReset_status (s : State) : (s.hardReset).status = Status.reset := rfl
@[simp] theorem State.hardReset_cmdLatch (s : State) : (s.hardReset).cmdLatch = 0 := rfl
@[simp] theorem State.hardReset_keyLen (s : State) : (s.hardReset).keyLen = 0 := rfl
@[simp] theorem State.hardReset_ivLen (s : State) : (s.hardReset).ivLen = 0 := rfl
@[simp] theorem State.hardReset_inLen (s : State) : (s.hardReset).inLen = 0 := rfl
@[simp] theorem State.hardReset_outLen (s : State) : (s.hardReset).outLen = 0 := rfl
@[simp] theorem State.hardReset_doneIe (s : State) : (s.hardReset).doneIe = false := rfl
@[simp] theorem State.hardReset_key (s : State) : (s.hardReset).key = Vector.replicate 32 0 := rfl
@[simp] theorem State.hardReset_iv (s : State) : (s.hardReset).iv = Vector.replicate 16 0 := rfl
@[simp] theorem State.hardReset_ibuf (s : State) : (s.hardReset).ibuf = [] := rfl
@[simp] theorem State.hardReset_obuf (s : State) : (s.hardReset).obuf = [] := rfl
@[simp] theorem State.hardReset_work (s : State) : (s.hardReset).work = Work.discarded := rfl
@[simp] theorem State.hardReset_draws (s : State) :
    (s.hardReset).draws =
      { s.draws with ibuf := s.draws.ibuf + 1, obuf := s.draws.obuf + 1 } := rfl
@[simp] theorem State.hardReset_rstN (s : State) : (s.hardReset).rstN = s.rstN := rfl
@[simp] theorem State.hardReset_rdata (s : State) : (s.hardReset).rdata = s.rdata := rfl
@[simp] theorem State.hardReset_events (s : State) : (s.hardReset).events = s.events := rfl

/-! ### State.softReset -/

@[simp] theorem State.softReset_status (s : State) : (s.softReset).status = Status.reset := rfl
@[simp] theorem State.softReset_cmdLatch (s : State) : (s.softReset).cmdLatch = 0 := rfl
@[simp] theorem State.softReset_keyLen (s : State) : (s.softReset).keyLen = 0 := rfl
@[simp] theorem State.softReset_ivLen (s : State) : (s.softReset).ivLen = 0 := rfl
@[simp] theorem State.softReset_inLen (s : State) : (s.softReset).inLen = 0 := rfl
@[simp] theorem State.softReset_outLen (s : State) : (s.softReset).outLen = 0 := rfl
@[simp] theorem State.softReset_doneIe (s : State) : (s.softReset).doneIe = false := rfl
@[simp] theorem State.softReset_key (s : State) : (s.softReset).key = Vector.replicate 32 0 := rfl
@[simp] theorem State.softReset_iv (s : State) : (s.softReset).iv = Vector.replicate 16 0 := rfl
@[simp] theorem State.softReset_ibuf (s : State) : (s.softReset).ibuf = s.ibuf := rfl
@[simp] theorem State.softReset_obuf (s : State) : (s.softReset).obuf = [] := rfl
@[simp] theorem State.softReset_work (s : State) : (s.softReset).work = Work.discarded := rfl
@[simp] theorem State.softReset_draws (s : State) :
    (s.softReset).draws =
      { s.draws with obuf := s.draws.obuf + 1 } := rfl
@[simp] theorem State.softReset_rstN (s : State) : (s.softReset).rstN = s.rstN := rfl
@[simp] theorem State.softReset_rdata (s : State) : (s.softReset).rdata = s.rdata := rfl
@[simp] theorem State.softReset_events (s : State) : (s.softReset).events = s.events := rfl

/-! ### Status.accept -/

@[simp] theorem Status.accept_busy (f : Status) (op : BitVec 4) : (f.accept op).busy = true := rfl
@[simp] theorem Status.accept_done (f : Status) (op : BitVec 4) : (f.accept op).done = false := rfl
@[simp] theorem Status.accept_err (f : Status) (op : BitVec 4) : (f.accept op).err = false := rfl
@[simp] theorem Status.accept_outValid (f : Status) (op : BitVec 4) : (f.accept op).outValid = false := rfl
@[simp] theorem Status.accept_ignored (f : Status) (op : BitVec 4) : (f.accept op).ignored = f.ignored := rfl
@[simp] theorem Status.accept_errCode (f : Status) (op : BitVec 4) : (f.accept op).errCode = 0 := rfl
@[simp] theorem Status.accept_lastOp (f : Status) (op : BitVec 4) : (f.accept op).lastOp = op := rfl

/-! ### Status.succeed -/

@[simp] theorem Status.succeed_busy (f : Status) : (f.succeed).busy = false := rfl
@[simp] theorem Status.succeed_done (f : Status) : (f.succeed).done = true := rfl
@[simp] theorem Status.succeed_err (f : Status) : (f.succeed).err = f.err := rfl
@[simp] theorem Status.succeed_outValid (f : Status) : (f.succeed).outValid = true := rfl
@[simp] theorem Status.succeed_ignored (f : Status) : (f.succeed).ignored = f.ignored := rfl
@[simp] theorem Status.succeed_errCode (f : Status) : (f.succeed).errCode = f.errCode := rfl
@[simp] theorem Status.succeed_lastOp (f : Status) : (f.succeed).lastOp = f.lastOp := rfl

/-! ### Status.fail -/

@[simp] theorem Status.fail_busy (f : Status) (e : ErrorKind) : (f.fail e).busy = false := rfl
@[simp] theorem Status.fail_done (f : Status) (e : ErrorKind) : (f.fail e).done = true := rfl
@[simp] theorem Status.fail_err (f : Status) (e : ErrorKind) : (f.fail e).err = true := rfl
@[simp] theorem Status.fail_outValid (f : Status) (e : ErrorKind) : (f.fail e).outValid = f.outValid := rfl
@[simp] theorem Status.fail_ignored (f : Status) (e : ErrorKind) : (f.fail e).ignored = f.ignored := rfl
@[simp] theorem Status.fail_errCode (f : Status) (e : ErrorKind) : (f.fail e).errCode = e.code := rfl
@[simp] theorem Status.fail_lastOp (f : Status) (e : ErrorKind) : (f.fail e).lastOp = f.lastOp := rfl

/-! ### Status.ack -/

@[simp] theorem Status.ack_busy (f : Status) : (f.ack).busy = f.busy := rfl
@[simp] theorem Status.ack_done (f : Status) : (f.ack).done = false := rfl
@[simp] theorem Status.ack_err (f : Status) : (f.ack).err = f.err := rfl
@[simp] theorem Status.ack_outValid (f : Status) : (f.ack).outValid = f.outValid := rfl
@[simp] theorem Status.ack_ignored (f : Status) : (f.ack).ignored = f.ignored := rfl
@[simp] theorem Status.ack_errCode (f : Status) : (f.ack).errCode = f.errCode := rfl
@[simp] theorem Status.ack_lastOp (f : Status) : (f.ack).lastOp = f.lastOp := rfl

/-! ### Status.clearIgnored -/

@[simp] theorem Status.clearIgnored_busy (f : Status) : (f.clearIgnored).busy = f.busy := rfl
@[simp] theorem Status.clearIgnored_done (f : Status) : (f.clearIgnored).done = f.done := rfl
@[simp] theorem Status.clearIgnored_err (f : Status) : (f.clearIgnored).err = f.err := rfl
@[simp] theorem Status.clearIgnored_outValid (f : Status) : (f.clearIgnored).outValid = f.outValid := rfl
@[simp] theorem Status.clearIgnored_ignored (f : Status) : (f.clearIgnored).ignored = false := rfl
@[simp] theorem Status.clearIgnored_errCode (f : Status) : (f.clearIgnored).errCode = f.errCode := rfl
@[simp] theorem Status.clearIgnored_lastOp (f : Status) : (f.clearIgnored).lastOp = f.lastOp := rfl

/-! ### Status.markIgnored -/

@[simp] theorem Status.markIgnored_busy (f : Status) : (f.markIgnored).busy = f.busy := rfl
@[simp] theorem Status.markIgnored_done (f : Status) : (f.markIgnored).done = f.done := rfl
@[simp] theorem Status.markIgnored_err (f : Status) : (f.markIgnored).err = f.err := rfl
@[simp] theorem Status.markIgnored_outValid (f : Status) : (f.markIgnored).outValid = f.outValid := rfl
@[simp] theorem Status.markIgnored_ignored (f : Status) : (f.markIgnored).ignored = true := rfl
@[simp] theorem Status.markIgnored_errCode (f : Status) : (f.markIgnored).errCode = f.errCode := rfl
@[simp] theorem Status.markIgnored_lastOp (f : Status) : (f.markIgnored).lastOp = f.lastOp := rfl

/-! ### Status.reset -/

@[simp] theorem Status.reset_busy : Status.reset.busy = false := rfl
@[simp] theorem Status.reset_done : Status.reset.done = false := rfl
@[simp] theorem Status.reset_err : Status.reset.err = false := rfl
@[simp] theorem Status.reset_outValid : Status.reset.outValid = false := rfl
@[simp] theorem Status.reset_ignored : Status.reset.ignored = false := rfl
@[simp] theorem Status.reset_errCode : Status.reset.errCode = 0 := rfl
@[simp] theorem Status.reset_lastOp : Status.reset.lastOp = 0 := rfl

end Sys2Proof.Machine
end

