-- ==== Sys2Proof/Laws/Commands.lean ====
section
/-! SUPPORT. What a command can do, said once: the checks, the two completions, and the inversion lemma of `exec`. -/

namespace Sys2Proof.Machine

/-! ### The operands -/

@[simp] theorem State.length_input (s : State) : s.input.length = s.inLen.toNat := by
  simp [State.input, State.inputLen]

@[simp] theorem State.getElem_input (s : State) (n : Nat) (h : n < s.input.length) : s.input[n] = s.ibufByte n := by
  simp [State.input]

/-- The input string is determined by IN_LEN and the bytes below it. -/
theorem State.input_congr {s t : State} (hl : t.inLen = s.inLen)
    (hb : ∀ n, n < s.inLen.toNat → t.ibufByte n = s.ibufByte n) : t.input = s.input := by
  apply List.ext_getElem
  · simp [hl]
  · intro n h1 h2
    rw [State.getElem_input, State.getElem_input]
    exact hb n (by simpa using h2)

/-! ### The checks -/

/-- The checks pass exactly under the conditions on KEYLEN, IVLEN and IN_LEN. -/
theorem State.precheck_eq_none (n : Needs) (s : State) :
    s.precheck n = none ↔
      (n.key = true → s.keyLen = 32) ∧ (n.iv = true → s.ivLen = 16) ∧ s.inLen.toNat ≤ Config.ibufSize
        ∧ (n.container = true → 16 ≤ s.inLen.toNat) ∧ (n.aligned = true → s.inLen.toNat % 16 = 0) := by
  unfold State.precheck State.inputLen
  constructor
  · intro h
    iterate 5 (split at h; contradiction)
    next h1 h2 h3 h4 h5 =>
    refine ⟨fun hk => ?_, fun hv => ?_, by omega, fun hc => ?_, fun ha => ?_⟩
    · by_contra hne; exact h1 ⟨hk, hne⟩
    · by_contra hne; exact h2 ⟨hv, hne⟩
    · by_contra hne; exact h4 ⟨hc, by omega⟩
    · by_contra hne; exact h5 ⟨ha, hne⟩
  · rintro ⟨h1, h2, h3, h4, h5⟩
    rw [if_neg (fun h => h.2 (h1 h.1)), if_neg (fun h => h.2 (h2 h.1)), if_neg (by omega),
      if_neg (fun h => by have := h4 h.1; omega), if_neg (fun h => h.2 (h5 h.1))]

theorem State.finish_of_precheck_error {n : Needs} {s : State} {e : ErrorKind} (r : Except ErrorKind Output)
    (h : s.precheck n = some e) : s.finish n r = s.fail e := by simp [State.finish, h]

theorem State.finish_ok {n : Needs} {s : State} {o : Output} (h : s.precheck n = none) :
    s.finish n (.ok o) = s.succeed o := by simp [State.finish, h]

theorem State.finish_error {n : Needs} {s : State} {e : ErrorKind} (h : s.precheck n = none) :
    s.finish n (.error e) = s.fail e := by simp [State.finish, h]

/-- Everything `finish` can do. -/
theorem State.finish_cases (n : Needs) (r : Except ErrorKind Output) (s : State) :
    (∃ e, s.precheck n = some e ∧ s.finish n r = s.fail e)
    ∨ (∃ e, s.precheck n = none ∧ r = .error e ∧ s.finish n r = s.fail e)
    ∨ (∃ o, s.precheck n = none ∧ r = .ok o ∧ s.finish n r = s.succeed o) := by
  cases h : s.precheck n with
  | some e => exact .inl ⟨e, rfl, State.finish_of_precheck_error r h⟩
  | none =>
    cases r with
    | error e => exact .inr (.inl ⟨e, rfl, rfl, State.finish_error h⟩)
    | ok o => exact .inr (.inr ⟨o, rfl, rfl, State.finish_ok h⟩)

/-! ### The inversion lemma of exec -/

/-- A completion of a state: the failed one or the successful one (R101). -/
def IsFinish (t s : State) : Prop := (∃ e, t = s.fail e) ∨ ∃ o, t = s.succeed o

theorem State.finish_isFinish (n : Needs) (r : Except ErrorKind Output) (s : State) : IsFinish (s.finish n r) s := by
  rcases State.finish_cases n r s with ⟨e, _, h⟩ | ⟨e, _, _, h⟩ | ⟨o, _, _, h⟩
  · exact .inl ⟨e, h⟩
  · exact .inl ⟨e, h⟩
  · exact .inr ⟨o, h⟩

/-- Every command completes: it answers a next state, which is one of the two completions of the state it ran in. -/
theorem exec_cases (i : Instr) (s : State) : ∃ t, exec i s = .next t ∧ IsFinish t s := by
  cases i <;> first
    | exact ⟨_, rfl, State.finish_isFinish _ _ _⟩
    | exact ⟨_, rfl, .inl ⟨_, rfl⟩⟩

/-- The completion step of any word in CMDLATCH. -/
theorem State.runCommand_cases (s : State) : ∃ t, s.runCommand = .next t ∧ IsFinish t s := by
  unfold State.runCommand
  split
  · exact exec_cases _ _
  · exact ⟨_, rfl, .inl ⟨_, rfl⟩⟩

/-! ### The two completions in the terms of the claims -/

@[simp] theorem ErrorKind.code_ne_zero (e : ErrorKind) : e.code ≠ 0#4 := by cases e <;> decide

theorem ErrorKind.code_lt (e : ErrorKind) : e.code.toNat < 7 := by cases e <;> decide

theorem State.kept_fail (e : ErrorKind) (s : State) : Kept s (s.fail e) := by
  constructor <;> simp [State.ibufByte]

theorem State.kept_succeed (o : Output) (s : State) : Kept s (s.succeed o) := by
  constructor <;> simp [State.ibufByte]

theorem State.failed_fail (e : ErrorKind) (s : State) : Failed s (s.fail e) e.code where
  status := rfl
  outLen := rfl
  obuf _ := rfl
  ivr := rfl
  ivlen := rfl
  rng := rfl
  kept := State.kept_fail e s

/-- A completion with an output that fits is a success with that output. -/
theorem State.succeeded_succeed (o : Output) (s : State) (h : o.out.length ≤ Config.obufSize) :
    Succeeded s (s.succeed o) o.out (o.ivOut.getD s.iv) (if o.ivOut.isSome then 16 else s.ivLen)
      (if o.drew then 1 else 0) where
  status := rfl
  outLen := by
    have h1 : Config.obufSize ≤ 1048576 := by
      have := Config.extraBlocks.isLt
      unfold Config.obufSize Config.ibufSize
      omega
    rw [State.succeed_outLen, BitVec.toNat_ofNat]
    omega
  bytes n hn := by simp [State.obufByte, Memory.read?_ofBytes, hn]
  rest n hn := by simp [Memory.read?_ofBytes, hn]
  ivr := rfl
  ivlen := rfl
  rng := by
    rw [State.succeed_draws]
    split <;> rfl
  kept := State.kept_succeed o s

/-! ### The state an input finds -/

theorem step_of_hostWrite {s : State} {a : WordAddr} {w : Word} {rest : List Event}
    (h : s.events = .hostWrite a w :: rest) (hr : s.rstN = true) :
    step s = .next (State.hostWrite a w { s with events := rest }) := by
  simp [step, h, State.handle, State.writeEvent, hr]

theorem step_of_hostRead {s : State} {a : WordAddr} {rest : List Event}
    (h : s.events = .hostRead a :: rest) (hr : s.rstN = true) :
    step s = .next (State.hostRead a { s with events := rest }) := by
  simp [step, h, State.handle, State.readEvent, hr]

theorem step_of_resetPin {s : State} {level : Bool} {rest : List Event} (h : s.events = .resetPin level :: rest) :
    step s = .next (State.setResetPin level { s with events := rest }) := by
  simp [step, h, State.handle]

theorem step_of_sequencer {s : State} {rest : List Event} (h : s.events = .sequencer :: rest)
    (hr : s.rstN = true) (hb : s.status.busy = true) :
    step s = State.runCommand { s with events := rest } := by
  simp [step, h, State.handle, State.sequencerStep, State.completionEnabled, hr, hb]

end Sys2Proof.Machine
end

