-- ==== Sys2Proof/Laws/Decode.lean ====
section
/-! SUPPORT. The decoder's two cases: a word with a reserved bit set is rejected, and every other word is one of 256
numbers, so that a decidable fact about those is a fact about all of them. -/

namespace Sys2Proof

theorem decode_reserved (w : Word) (h : reservedField w ≠ 0) : decode w = .error .reservedBits := by
  unfold decode
  rw [if_pos h]

theorem toNat_lt_of_reserved (w : Word) (h : reservedField w = 0) : w.toNat < 256 := by
  unfold reservedField at h
  have := congrArg BitVec.toNat h
  simp [BitVec.extractLsb'_toNat, Nat.shiftRight_eq_div_pow] at this
  omega

/-- A Boolean test that holds of the 256 numbers holds of every word with no reserved bit set. -/
theorem all_of_range (p : Word → Bool) (h : ((List.range 256).all fun n => p (BitVec.ofNat 32 n)) = true) (w : Word)
    (hw : reservedField w = 0) : p w = true := by
  have := List.all_eq_true.mp h w.toNat (List.mem_range.mpr (toNat_lt_of_reserved w hw))
  simpa using this

end Sys2Proof
end

