-- ==== Sys2Proof/Laws/Host.lean ====
section
/-! SUPPORT. What each byte offset of the window reaches (20_memory.md R66), and what a host write or read does there. -/

namespace Sys2Proof.Machine

theorem byteOffset_wordAddr (off : Nat) (h4 : off % 4 = 0) (h : off < 0x400000) : byteOffset (wordAddr off) = off := by
  simp only [byteOffset, wordAddr, BitVec.toNat_ofNat]
  omega

theorem toNat_wordAddr (off : Nat) (h : off < 0x400000) : (wordAddr off).toNat = off / 4 := by
  simp only [wordAddr, BitVec.toNat_ofNat]
  omega

/-- The registers, by their row of the map. -/
theorem decodeAddr_register {off : Nat} {t : Target} (h : (off, t) ∈ registerMap) : decodeAddr (wordAddr off) = t := by
  have rows : registerMap.all (fun row => decodeAddr (wordAddr row.1) == row.2) = true := by decide
  exact beq_iff_eq.mp (List.all_eq_true.mp rows (off, t) h)

@[simp] theorem decodeAddr_id : decodeAddr (wordAddr 0x000) = .id := rfl
@[simp] theorem decodeAddr_ctrl : decodeAddr (wordAddr 0x004) = .ctrl := rfl
@[simp] theorem decodeAddr_status : decodeAddr (wordAddr 0x008) = .status := rfl
@[simp] theorem decodeAddr_cmd : decodeAddr (wordAddr 0x00C) = .cmd := rfl
@[simp] theorem decodeAddr_keyLen : decodeAddr (wordAddr 0x010) = .keyLen := rfl
@[simp] theorem decodeAddr_ivLen : decodeAddr (wordAddr 0x014) = .ivLen := rfl
@[simp] theorem decodeAddr_inLen : decodeAddr (wordAddr 0x018) = .inLen := rfl
@[simp] theorem decodeAddr_outLen : decodeAddr (wordAddr 0x01C) = .outLen := rfl
@[simp] theorem decodeAddr_irqEn : decodeAddr (wordAddr 0x020) = .irqEn := rfl
@[simp] theorem decodeAddr_ibufCap : decodeAddr (wordAddr 0x024) = .ibufCap := rfl
@[simp] theorem decodeAddr_obufCap : decodeAddr (wordAddr 0x028) = .obufCap := rfl

theorem decodeAddr_key (k : Nat) (h : k < 8) : decodeAddr (wordAddr (0x040 + 4 * k)) = .key k := by
  have : k = 0 ∨ k = 1 ∨ k = 2 ∨ k = 3 ∨ k = 4 ∨ k = 5 ∨ k = 6 ∨ k = 7 := by omega
  rcases this with rfl | rfl | rfl | rfl | rfl | rfl | rfl | rfl <;> rfl

theorem decodeAddr_iv (k : Nat) (h : k < 4) : decodeAddr (wordAddr (0x060 + 4 * k)) = .iv k := by
  have : k = 0 ∨ k = 1 ∨ k = 2 ∨ k = 3 := by omega
  rcases this with rfl | rfl | rfl | rfl <;> rfl

theorem decodeAddr_ibuf (m : Nat) (h : 4 * m < Config.ibufSize) : decodeAddr (wordAddr (0x100000 + 4 * m)) = .ibuf m := by
  have hs := Config.ibufSize_le
  have ho := byteOffset_wordAddr (0x100000 + 4 * m) (by omega) (by omega)
  unfold decodeAddr
  rw [ho, toNat_wordAddr _ (by omega), if_neg (by omega), if_neg (by omega), if_pos (by omega), if_pos (by omega)]
  have hm : (0x100000 + 4 * m) / 4 - 0x40000 = m := by omega
  rw [hm]

theorem decodeAddr_obuf (m : Nat) (h : 4 * m < Config.obufSize) : decodeAddr (wordAddr (0x200000 + 4 * m)) = .obuf m := by
  have hs := Config.ibufSize_le
  have hz := Config.obufSize_eq
  have ho := byteOffset_wordAddr (0x200000 + 4 * m) (by omega) (by omega)
  unfold decodeAddr
  rw [ho, toNat_wordAddr _ (by omega), if_neg (by omega), if_neg (by omega), if_neg (by omega), if_pos (by omega),
    if_pos (by omega)]
  have hm : (0x200000 + 4 * m) / 4 - 0x80000 = m := by omega
  rw [hm]

/-- What the map gives below 0x100: a row of the register map, or nothing. -/
theorem lookup_registerMap_cases (off : Nat) :
    (∃ t, (off, t) ∈ registerMap ∧ registerMap.lookup off = some t)
    ∨ registerMap.lookup off = none ∧ ∀ t, (off, t) ∉ registerMap := by
  cases h : registerMap.lookup off with
  | some t =>
    refine .inl ⟨t, ?_, rfl⟩
    generalize registerMap = l at h
    induction l with
    | nil => simp at h
    | cons c r ih =>
      obtain ⟨k, u⟩ := c
      rw [List.lookup_cons] at h
      by_cases hk : off = k
      · subst hk; simp at h; subst h; exact List.mem_cons_self
      · have : (off == k) = false := by simpa using hk
        rw [this] at h
        exact List.mem_cons_of_mem _ (ih h)
  | none =>
    refine .inr ⟨rfl, ?_⟩
    generalize registerMap = l at h
    induction l with
    | nil => simp
    | cons c r ih =>
      obtain ⟨k, u⟩ := c
      rw [List.lookup_cons] at h
      by_cases hk : off = k
      · subst hk; simp at h
      · have : (off == k) = false := by simpa using hk
        rw [this] at h
        intro t ht
        rcases List.mem_cons.mp ht with ht | ht
        · exact hk (Prod.mk.inj ht).1
        · exact ih h t ht

/-- Every address reaches a register of the map, a word of IBUF or OBUF, or nothing. -/
theorem decodeAddr_cases (a : WordAddr) :
    (byteOffset a, decodeAddr a) ∈ registerMap
    ∨ (∃ m, decodeAddr a = .ibuf m ∧ byteOffset a = 0x100000 + 4 * m ∧ 4 * m < Config.ibufSize)
    ∨ (∃ m, decodeAddr a = .obuf m ∧ byteOffset a = 0x200000 + 4 * m ∧ 4 * m < Config.obufSize)
    ∨ decodeAddr a = .unbacked := by
  have hb : byteOffset a = 4 * a.toNat := rfl
  unfold decodeAddr
  split
  · rcases lookup_registerMap_cases (byteOffset a) with ⟨t, hm, hl⟩ | ⟨hl, _⟩
    · exact .inl (by rw [hl]; exact hm)
    · exact .inr (.inr (.inr (by rw [hl]; rfl)))
  · split
    · exact .inr (.inr (.inr rfl))
    · split
      · split
        · exact .inr (.inl ⟨_, rfl, by omega, by omega⟩)
        · exact .inr (.inr (.inr rfl))
      · split
        · split
          · exact .inr (.inr (.inl ⟨_, rfl, by omega, by omega⟩))
          · exact .inr (.inr (.inr rfl))
        · exact .inr (.inr (.inr rfl))

theorem State.hostWrite_of_not_filtered {a : WordAddr} (w : Word) (s : State)
    (h : s.status.busy = false ∨ (decodeAddr a).busyFiltered = false) :
    s.hostWrite a w = s.writeTarget (decodeAddr a) w := by
  rcases h with h | h <;> simp [State.hostWrite, h]

theorem State.hostWrite_filtered {a : WordAddr} (w : Word) {s : State} (hb : s.status.busy = true)
    (hf : (decodeAddr a).busyFiltered = true) :
    s.hostWrite a w = { s with status := s.status.markIgnored } := by simp [State.hostWrite, hb, hf]

/-- Everything a host write can do. -/
theorem State.hostWrite_cases (a : WordAddr) (w : Word) (s : State) :
    (s.status.busy = true ∧ (decodeAddr a).busyFiltered = true
        ∧ s.hostWrite a w = { s with status := s.status.markIgnored })
    ∨ (decodeAddr a = .ctrl ∧ s.hostWrite a w = s.writeCtrl w)
    ∨ (s.status.busy = false ∧ decodeAddr a = .cmd ∧ s.hostWrite a w = s.accept w)
    ∨ (s.status.busy = false ∧ decodeAddr a = .keyLen ∧ s.hostWrite a w = { s with keyLen := w.setWidth 8 })
    ∨ (s.status.busy = false ∧ decodeAddr a = .ivLen ∧ s.hostWrite a w = { s with ivLen := w.setWidth 8 })
    ∨ (s.status.busy = false ∧ decodeAddr a = .inLen ∧ s.hostWrite a w = { s with inLen := w })
    ∨ (decodeAddr a = .irqEn ∧ s.hostWrite a w = { s with doneIe := w.getLsbD 0 })
    ∨ (s.status.busy = false ∧ ∃ k, decodeAddr a = .key k ∧ s.hostWrite a w = { s with key := setLanes s.key k w })
    ∨ (s.status.busy = false ∧ ∃ k, decodeAddr a = .iv k ∧ s.hostWrite a w = { s with iv := setLanes s.iv k w })
    ∨ (s.status.busy = false ∧ ∃ m, decodeAddr a = .ibuf m ∧ s.hostWrite a w = { s with ibuf := s.ibuf.writeWord m w })
    ∨ s.hostWrite a w = s := by
  cases hb : s.status.busy with
  | true =>
    cases hf : (decodeAddr a).busyFiltered with
    | true => exact .inl ⟨rfl, rfl, State.hostWrite_filtered w hb hf⟩
    | false =>
      have h := State.hostWrite_of_not_filtered w s (.inr hf)
      rw [h]
      cases hd : decodeAddr a <;> rw [hd] at hf <;> simp [Target.busyFiltered] at hf <;> simp [State.writeTarget]
  | false =>
    have h := State.hostWrite_of_not_filtered (a := a) w s (.inl hb)
    rw [h]
    cases hd : decodeAddr a <;> simp [State.writeTarget]

/-- Everything a host read can do. -/
theorem State.hostRead_cases (a : WordAddr) (s : State) :
    (s.status.busy = true ∧ (decodeAddr a).unspecifiedWhileBusy = true ∧ s.hostRead a = s.readFree)
    ∨ ((s.status.busy = false ∨ (decodeAddr a).unspecifiedWhileBusy = false)
        ∧ s.hostRead a = { s with rdata := s.readTarget (decodeAddr a) }) := by
  unfold State.hostRead
  cases s.status.busy <;> cases (decodeAddr a).unspecifiedWhileBusy <;> simp

theorem State.hostRead_specified {a : WordAddr} {s : State}
    (h : s.status.busy = false ∨ (decodeAddr a).unspecifiedWhileBusy = false) :
    s.hostRead a = { s with rdata := s.readTarget (decodeAddr a) } := by
  rcases h with h | h <;> simp [State.hostRead, h]

theorem State.hostRead_unspecified {a : WordAddr} {s : State} (hb : s.status.busy = true)
    (hf : (decodeAddr a).unspecifiedWhileBusy = true) : s.hostRead a = s.readFree := by
  simp [State.hostRead, hb, hf]

end Sys2Proof.Machine
end

