-- ==== Sys2Proof/Laws/Modes.lean ====
section
/-! SUPPORT. The block runner: one lemma for the first block, one for a short or empty rest, the length of what it
gives, and what each block step does to the working state. -/

namespace Sys2Proof.Machine

@[simp] theorem runBlocks_nil (f : Work → Bytes → Bytes × Work) (w : Work) : runBlocks f w [] = ([], w) := rfl

theorem runBlocks_cons (f : Work → Bytes → Bytes × Work) (w : Work) (d : Bytes) (rest : List Bytes) :
    runBlocks f w (d :: rest) = ((f w d).1 ++ (runBlocks f (f w d).2 rest).1, (runBlocks f (f w d).2 rest).2) := rfl

/-- The runner on a whole block and the rest. -/
theorem runBlocks_append (f : Work → Bytes → Bytes × Work) (w : Work) (c x : Bytes) (h : c.length = 16) :
    (runBlocks f w (blocks (c ++ x))).1 = (f w c).1 ++ (runBlocks f (f w c).2 (blocks x)).1 := by
  rw [blocks_append c x h, runBlocks_cons]

/-- The runner on a short rest. -/
theorem runBlocks_short (f : Work → Bytes → Bytes × Work) (w : Work) (x : Bytes) (h0 : 0 < x.length)
    (h : x.length ≤ 16) : (runBlocks f w (blocks x)).1 = (f w x).1 := by
  rw [blocks_short x h0 h, runBlocks_cons, runBlocks_nil, List.append_nil]

/-- A block step that keeps the length of blocks of up to 16 bytes keeps the length of the data. -/
theorem length_runBlocks (f : Work → Bytes → Bytes × Work)
    (hf : ∀ w d, d.length ≤ 16 → (f w d).1.length = d.length) (x : Bytes) :
    ∀ w, (runBlocks f w (blocks x)).1.length = x.length := by
  refine blocks_induction (P := fun x => ∀ w, (runBlocks f w (blocks x)).1.length = x.length) ?_ ?_ ?_ x
  · intro w; simp
  · intro x h0 h w; rw [runBlocks_short f w x h0 (by omega)]; exact hf w x (by omega)
  · intro c x hc ih w
    rw [runBlocks_append f w c x hc, List.length_append, List.length_append, hf w c (by omega), ih]

/-- The same for whole blocks and a step that gives 16 bytes for 16. -/
theorem length_runBlocks_aligned (f : Work → Bytes → Bytes × Work)
    (hf : ∀ w d, d.length = 16 → (f w d).1.length = 16) (x : Bytes) (hx : x.length % 16 = 0) :
    ∀ w, (runBlocks f w (blocks x)).1.length = x.length := by
  refine blocks_induction_aligned (P := fun x => ∀ w, (runBlocks f w (blocks x)).1.length = x.length) ?_ ?_ x hx
  · intro w; simp
  · intro c x hc ih w
    rw [runBlocks_append f w c x hc, List.length_append, List.length_append, hf w c hc, ih, hc]

/-! ### One block of each mode -/

@[simp] theorem length_cbcFwdBlock (p : BlockPrimitive) (k : Key) (w : Work) (d : Bytes) :
    (cbcFwdBlock p k w d).1.length = 16 := by simp [cbcFwdBlock]

@[simp] theorem length_cbcInvBlock (p : BlockPrimitive) (k : Key) (w : Work) (d : Bytes) :
    (cbcInvBlock p k w d).1.length = 16 := by simp [cbcInvBlock]

theorem length_cfbFwdBlock (p : BlockPrimitive) (k : Key) (w : Work) (d : Bytes) (h : d.length ≤ 16) :
    (cfbFwdBlock p k w d).1.length = d.length := length_xorTruncated _ _ h

theorem length_cfbInvBlock (p : BlockPrimitive) (k : Key) (w : Work) (d : Bytes) (h : d.length ≤ 16) :
    (cfbInvBlock p k w d).1.length = d.length := length_xorTruncated _ _ h

theorem length_ofbBlock (p : BlockPrimitive) (k : Key) (w : Work) (d : Bytes) (h : d.length ≤ 16) :
    (ofbBlock p k w d).1.length = d.length := length_xorTruncated _ _ h

theorem length_ctrBlock (p : BlockPrimitive) (k : Key) (w : Work) (d : Bytes) (h : d.length ≤ 16) :
    (ctrBlock p k w d).1.length = d.length := length_xorTruncated _ _ h

theorem cbcFwdBlock_chain (p : BlockPrimitive) (k : Key) (w : Work) (d : Bytes) :
    (cbcFwdBlock p k w d).2.chain = blockOf (cbcFwdBlock p k w d).1 := by simp [cbcFwdBlock]

theorem cbcInvBlock_chain (p : BlockPrimitive) (k : Key) (w : Work) (d : Bytes) :
    (cbcInvBlock p k w d).2.chain = blockOf d := rfl

theorem cfbFwdBlock_chain (p : BlockPrimitive) (k : Key) (w : Work) (d : Bytes) :
    (cfbFwdBlock p k w d).2.chain = blockOf (cfbFwdBlock p k w d).1 := rfl

theorem cfbInvBlock_chain (p : BlockPrimitive) (k : Key) (w : Work) (d : Bytes) :
    (cfbInvBlock p k w d).2.chain = blockOf d := rfl

/-! ### The pad count -/

theorem padCount_pos (n : Nat) : 1 ≤ padCount n := by unfold padCount; omega

theorem padCount_le (n : Nat) : padCount n ≤ 16 := by unfold padCount; omega

theorem length_pad (x : Bytes) : (pad x).length = 16 * (x.length / 16 + 1) := by
  unfold pad padCount
  rw [List.length_append, List.length_replicate]
  omega

end Sys2Proof.Machine
end

