-- ==== Sys2Proof/Laws/PerInstr.lean ====
section
/-! SUPPORT. Statements made for every instruction, one lemma for each constructor. -/

namespace Sys2Proof.Laws.EncodesLegal

/-- The word of a well-formed instruction has no reserved bit set (R94), an assigned OP (R91), IVSRC = 1 only under
ENCRYPT (R93) and a MODE only under the four moded operations (R92). -/
def Statement (i : Instr) : Prop :=
  WellFormed i →
    reservedField (encode i) = 0 ∧ 1 ≤ (opField (encode i)).toNat ∧ (opField (encode i)).toNat ≤ 8
      ∧ (ivsrcField (encode i) = 1 → opField (encode i) = 1)
      ∧ (modeField (encode i) ≠ 0 → (opField (encode i)).toNat ≤ 4)

/-- The same as a Boolean test, for words. -/
def holds (w : Word) : Bool :=
  decide (reservedField w = 0) && decide (1 ≤ (opField w).toNat) && decide ((opField w).toNat ≤ 8)
    && (!decide (ivsrcField w = 1) || decide (opField w = 1))
    && (decide (modeField w = 0) || decide ((opField w).toNat ≤ 4))

theorem of_holds {i : Instr} (h : holds (encode i) = true) : Statement i := by
  intro _
  simp only [holds, Bool.and_eq_true, Bool.or_eq_true, Bool.not_eq_true', decide_eq_true_eq,
    decide_eq_false_iff_not] at h
  obtain ⟨⟨⟨⟨h1, h2⟩, h3⟩, h4⟩, h5⟩ := h
  exact ⟨h1, h2, h3, fun h => h4.resolve_left (fun n => n h), fun h => h5.resolve_left h⟩

/-- The eight values of MODE, one by one. -/
theorem mode_cases {p : BitVec 3 → Prop} (h : ∀ n : Fin 8, p (BitVec.ofFin n)) (m : BitVec 3) : p m := h m.toFin

theorem encryptCbcRng : Statement .encryptCbcRng := of_holds (by decide)

theorem encryptCfbRng : Statement .encryptCfbRng := of_holds (by decide)

theorem encryptOfbRng : Statement .encryptOfbRng := of_holds (by decide)

theorem encryptCtrRng : Statement .encryptCtrRng := of_holds (by decide)

theorem encryptCbcReg : Statement .encryptCbcReg := of_holds (by decide)

theorem encryptCfbReg : Statement .encryptCfbReg := of_holds (by decide)

theorem encryptOfbReg : Statement .encryptOfbReg := of_holds (by decide)

theorem encryptCtrReg : Statement .encryptCtrReg := of_holds (by decide)

theorem decryptCbc : Statement .decryptCbc := of_holds (by decide)

theorem decryptCfb : Statement .decryptCfb := of_holds (by decide)

theorem decryptOfb : Statement .decryptOfb := of_holds (by decide)

theorem decryptCtr : Statement .decryptCtr := of_holds (by decide)

theorem xformFwdCbc : Statement .xformFwdCbc := of_holds (by decide)

theorem xformFwdCfb : Statement .xformFwdCfb := of_holds (by decide)

theorem xformFwdOfb : Statement .xformFwdOfb := of_holds (by decide)

theorem xformFwdCtr : Statement .xformFwdCtr := of_holds (by decide)

theorem xformInvCbc : Statement .xformInvCbc := of_holds (by decide)

theorem xformInvCfb : Statement .xformInvCfb := of_holds (by decide)

theorem xformInvOfb : Statement .xformInvOfb := of_holds (by decide)

theorem xformInvCtr : Statement .xformInvCtr := of_holds (by decide)

theorem padData : Statement .padData := of_holds (by decide)

theorem unpadData : Statement .unpadData := of_holds (by decide)

theorem encodeContainer : Statement .encodeContainer := of_holds (by decide)

theorem decodeContainer : Statement .decodeContainer := of_holds (by decide)

theorem encryptNoMode (mode : BitVec 3) (src : IvSrc) : Statement (.encryptNoMode mode src) :=
  of_holds (by
    cases src
    · exact mode_cases (p := fun m => holds (encode (.encryptNoMode m .rng)) = true) (by decide) mode
    · exact mode_cases (p := fun m => holds (encode (.encryptNoMode m .reg)) = true) (by decide) mode)

theorem decryptNoMode (mode : BitVec 3) : Statement (.decryptNoMode mode) :=
  of_holds (mode_cases (p := fun m => holds (encode (.decryptNoMode m)) = true) (by decide) mode)

theorem xformFwdNoMode (mode : BitVec 3) : Statement (.xformFwdNoMode mode) :=
  of_holds (mode_cases (p := fun m => holds (encode (.xformFwdNoMode m)) = true) (by decide) mode)

theorem xformInvNoMode (mode : BitVec 3) : Statement (.xformInvNoMode mode) :=
  of_holds (mode_cases (p := fun m => holds (encode (.xformInvNoMode m)) = true) (by decide) mode)

end Sys2Proof.Laws.EncodesLegal
end

