-- ==== Sys2Proof/Laws/Step.lean ====
section
/-! SUPPORT. The inversion lemma of `step`: everything one step can do, guards included; and what address a target
stands at. -/

namespace Sys2Proof.Machine

/-- The Sequencer's step is the completion where one is enabled, and nothing elsewhere. -/
theorem State.sequencerStep_cases (s : State) :
    (s.rstN = true ∧ s.status.busy = true ∧ s.sequencerStep = s.runCommand)
    ∨ ((s.rstN = false ∨ s.status.busy = false) ∧ s.sequencerStep = .next s) := by
  unfold State.sequencerStep State.completionEnabled
  cases hr : s.rstN <;> cases hb : s.status.busy <;> simp

/-- Everything one step can do. -/
theorem step_cases {s t : State} (h : step s = .next t) :
    (s.events = [] ∧ t = s)
    ∨ (s.events = [] ∧ s.rstN = true ∧ s.status.busy = true ∧ s.runCommand = .next t)
    ∨ (∃ a w rest, s.events = .hostWrite a w :: rest ∧ s.rstN = true
        ∧ t = State.hostWrite a w { s with events := rest })
    ∨ (∃ a w rest, s.events = .hostWrite a w :: rest ∧ s.rstN = false ∧ t = { s with events := rest })
    ∨ (∃ a rest, s.events = .hostRead a :: rest ∧ s.rstN = true ∧ t = State.hostRead a { s with events := rest })
    ∨ (∃ a rest, s.events = .hostRead a :: rest ∧ s.rstN = false ∧ t = State.readFree { s with events := rest })
    ∨ (∃ rest, s.events = .sequencer :: rest ∧ (s.rstN = false ∨ s.status.busy = false)
        ∧ t = { s with events := rest })
    ∨ (∃ rest, s.events = .sequencer :: rest ∧ s.rstN = true ∧ s.status.busy = true
        ∧ State.runCommand { s with events := rest } = .next t)
    ∨ (∃ level rest, s.events = .resetPin level :: rest ∧ t = State.setResetPin level { s with events := rest }) := by
  unfold step at h
  split at h
  · next he =>
    unfold State.quiet State.completionEnabled at h
    split at h
    · next hc =>
      simp only [Bool.and_eq_true] at hc
      exact .inr (.inl ⟨he, hc.1.1, hc.1.2, h⟩)
    · cases h; exact .inl ⟨he, rfl⟩
  · next e rest he =>
    cases e with
    | hostWrite a w =>
      simp only [State.handle, State.writeEvent, Host.Outcome.next.injEq] at h
      split at h
      · next hr => exact .inr (.inr (.inl ⟨a, w, rest, he, hr, h.symm⟩))
      · next hr => exact .inr (.inr (.inr (.inl ⟨a, w, rest, he, by simpa using hr, h.symm⟩)))
    | hostRead a =>
      simp only [State.handle, State.readEvent, Host.Outcome.next.injEq] at h
      split at h
      · next hr => exact .inr (.inr (.inr (.inr (.inl ⟨a, rest, he, hr, h.symm⟩))))
      · next hr => exact .inr (.inr (.inr (.inr (.inr (.inl ⟨a, rest, he, by simpa using hr, h.symm⟩)))))
    | sequencer =>
      simp only [State.handle] at h
      rcases State.sequencerStep_cases { s with events := rest } with ⟨hr, hb, hs⟩ | ⟨hi, hs⟩ <;> rw [hs] at h
      · exact .inr (.inr (.inr (.inr (.inr (.inr (.inr (.inl ⟨rest, he, hr, hb, h⟩)))))))
      · cases h
        exact .inr (.inr (.inr (.inr (.inr (.inr (.inl ⟨rest, he, hi, rfl⟩))))))
    | resetPin level =>
      simp only [State.handle, Host.Outcome.next.injEq] at h
      exact .inr (.inr (.inr (.inr (.inr (.inr (.inr (.inr ⟨level, rest, he, h.symm⟩)))))))

/-- The pin either does nothing or resets. -/
theorem State.setResetPin_cases (level : Bool) (s : State) :
    (level = true ∧ s.rstN = true ∧ s.setResetPin level = s)
    ∨ s.setResetPin level = { s.hardReset with rstN := level } := by
  unfold State.setResetPin
  cases level <;> cases s.rstN <;> simp

/-- Everything a write to CTRL can do. -/
theorem State.writeCtrl_cases (w : Word) (s : State) :
    (w.getLsbD 0 = true ∧ s.writeCtrl w = s.softReset)
    ∨ (w.getLsbD 0 = false ∧ s.writeCtrl w = { s with
        status := { s.status with
          done := s.status.done && !w.getLsbD 1, ignored := s.status.ignored && !w.getLsbD 2 } }) := by
  unfold State.writeCtrl
  cases w.getLsbD 0
  · refine .inr ⟨rfl, ?_⟩
    cases w.getLsbD 1 <;> cases w.getLsbD 2 <;> simp [Status.clearIgnored, Status.ack, State.acknowledge]
  · exact .inl ⟨rfl, rfl⟩

/-- A target of the register map stands at its row's offset. -/
theorem byteOffset_of_register {a : WordAddr} {t : Target} (h : decodeAddr a = t)
    (hi : ∀ m, t ≠ .ibuf m) (ho : ∀ m, t ≠ .obuf m) (hu : t ≠ .unbacked) : (byteOffset a, t) ∈ registerMap := by
  rcases decodeAddr_cases a with h' | ⟨m, h', _⟩ | ⟨m, h', _⟩ | h'
  · rw [h] at h'; exact h'
  · exact absurd (h.symm.trans h') (hi m)
  · exact absurd (h.symm.trans h') (ho m)
  · exact absurd (h.symm.trans h') hu

theorem byteOffset_of_ctrl {a : WordAddr} (h : decodeAddr a = .ctrl) : byteOffset a = 0x004 := by
  have := byteOffset_of_register h (by simp) (by simp) (by simp)
  simpa [registerMap] using this

theorem byteOffset_of_cmd {a : WordAddr} (h : decodeAddr a = .cmd) : byteOffset a = 0x00C := by
  have := byteOffset_of_register h (by simp) (by simp) (by simp)
  simpa [registerMap] using this

theorem byteOffset_of_key {a : WordAddr} {k : Nat} (h : decodeAddr a = .key k) : k < 8 ∧ byteOffset a = 0x040 + 4 * k := by
  have := byteOffset_of_register h (by simp) (by simp) (by simp)
  simp [registerMap] at this
  omega

theorem byteOffset_of_iv {a : WordAddr} {k : Nat} (h : decodeAddr a = .iv k) : k < 4 ∧ byteOffset a = 0x060 + 4 * k := by
  have := byteOffset_of_register h (by simp) (by simp) (by simp)
  simp [registerMap] at this
  omega

theorem ibuf_word_below {a : WordAddr} {m : Nat} (h : decodeAddr a = .ibuf m) : 4 * m + 3 < Config.ibufSize := by
  have hm := Config.ibufSize_mod
  rcases decodeAddr_cases a with h' | ⟨n, h', _, h2⟩ | ⟨n, h', _⟩ | h'
  · rw [h] at h'; simp [registerMap] at h'
  · rw [h] at h'; cases h'; omega
  · rw [h] at h'; cases h'
  · rw [h] at h'; cases h'

end Sys2Proof.Machine
end

