-- ==== Sys2Proof/Machine/HostMacros.lean ====
section
/-! DEFINITION. The host pseudo-instructions as the accesses they put on the port (30_encoding.md R104, R105). What the
host itself decides from the words it reads (how often `wait` polls, how many words `rdout` reads, a branch of a host
program) is its own control flow (R103), and stands here as an argument. -/

namespace Sys2Proof.Machine

/-- `wr OFF, W` (R104). -/
def wr (off : Nat) (w : Word) : Event := .hostWrite (wordAddr off) w

/-- `rd OFF` (R104). The word read stands in `State.rdata` after it. -/
def rd (off : Nat) : Event := .hostRead (wordAddr off)

/-- `word(x)` of up to four bytes, with zero lanes past the end (R105). -/
def wordOfBytes (x : Bytes) : Word := laneWord fun j => x.getD j 0

/-- `cmd C` (R105). -/
def cmdMacro (i : Instr) : List Event := [wr 0x00C (encode i)]

/-- `CMD.raw W`, legal or not (R104). -/
def cmdRawMacro (w : Word) : List Event := [wr 0x00C w]

/-- `wait` that polls STATUS n times (R105). -/
def waitMacro (n : Nat) : List Event := List.replicate n (rd 0x008)

/-- Whether `wait` polls again after it has read this word from STATUS (R105). -/
def waitPollsAgain (w : Word) : Bool := w.getLsbD 0

/-- `ack` (R105). -/
def ackMacro : List Event := [wr 0x004 2]

/-- `srst` (R105). -/
def srstMacro : List Event := [wr 0x004 1]

/-- `clrign` (R105). -/
def clrignMacro : List Event := [wr 0x004 4]

/-- `ldkey b`, |b| = 32 (R105). -/
def ldkeyMacro (b : Bytes) : List Event :=
  (List.range 8).map (fun k => wr (0x040 + 4 * k) (wordOfBytes ((b.drop (4 * k)).take 4))) ++ [wr 0x010 32]

/-- `ldkeylen n` (R105). -/
def ldkeylenMacro (n : Nat) : List Event := [wr 0x010 (BitVec.ofNat 32 n)]

/-- `ldiv b`, |b| = 16 (R105). -/
def ldivMacro (b : Bytes) : List Event :=
  (List.range 4).map (fun k => wr (0x060 + 4 * k) (wordOfBytes ((b.drop (4 * k)).take 4))) ++ [wr 0x014 16]

/-- `ldin b` (R105). -/
def ldinMacro (b : Bytes) : List Event :=
  (List.range ((b.length + 3) / 4)).map (fun m => wr (0x100000 + 4 * m) (wordOfBytes ((b.drop (4 * m)).take 4)))
    ++ [wr 0x018 (BitVec.ofNat 32 b.length)]

/-- The reads of `rdout` once OUT_LEN has been read as n (R105). -/
def rdoutMacro (n : Nat) : List Event :=
  rd 0x01C :: (List.range ((n + 3) / 4)).map (fun m => rd (0x200000 + 4 * m))

/-- The byte string of `rdout`: the first n bytes of the words read, in order (R105). -/
def rdoutBytes (n : Nat) (words : List Word) : Bytes := (words.flatMap le32).take n

/-- The reads of `rdiv` (R105). -/
def rdivMacro : List Event := (List.range 4).map (fun k => rd (0x060 + 4 * k))

/-- `out2in`, where `rdout` gives the byte string b (R105). -/
def out2inMacro (b : Bytes) : List Event := rdoutMacro b.length ++ ldinMacro b

end Sys2Proof.Machine
end

