-- ==== Sys2Proof/Tests/Slice0.lean ====
section
/-! SUPPORT. Tests: ill-formed terms, words written out from the encoding tables, the vectors of 95_test_vectors.md under
its toy primitive, single steps; and one witness for each obligation with hypotheses. -/

namespace Sys2Proof.Tests

open Sys2Proof.Machine Sys2Proof.Spec

/-! ### WellFormed refuses -/

theorem test_encrypt_mode_3_is_ill_formed : ¬ WellFormed (.encryptNoMode 3 .rng) := by decide
theorem test_decrypt_mode_0_is_ill_formed : ¬ WellFormed (.decryptNoMode 0) := by decide
theorem test_xform_fwd_mode_1_is_ill_formed : ¬ WellFormed (.xformFwdNoMode 1) := by decide
theorem test_xform_inv_mode_2_is_ill_formed : ¬ WellFormed (.xformInvNoMode 2) := by decide

/-! ### Decoding: words written bit by bit as IVSRC, MODE (three bits), OP (four bits), R90 to R93 -/

/-- A test word decodes to the instruction. -/
def decodesTo (c : Nat × Instr) : Bool := decodeTableWord 32 c.1 == some c.2

theorem test_decode_encrypt_rng :
    [(0b00000001, .encryptCbcRng), (0b00010001, .encryptCfbRng), (0b00100001, .encryptOfbRng),
     (0b00110001, .encryptCtrRng)].all decodesTo = true := by decide

theorem test_decode_encrypt_reg :
    [(0b10000001, .encryptCbcReg), (0b10010001, .encryptCfbReg), (0b10100001, .encryptOfbReg),
     (0b10110001, .encryptCtrReg)].all decodesTo = true := by decide

theorem test_decode_decrypt :
    [(0b00000010, .decryptCbc), (0b00010010, .decryptCfb), (0b00100010, .decryptOfb),
     (0b00110010, .decryptCtr)].all decodesTo = true := by decide

theorem test_decode_xform_fwd :
    [(0b00000011, .xformFwdCbc), (0b00010011, .xformFwdCfb), (0b00100011, .xformFwdOfb),
     (0b00110011, .xformFwdCtr)].all decodesTo = true := by decide

theorem test_decode_xform_inv :
    [(0b00000100, .xformInvCbc), (0b00010100, .xformInvCfb), (0b00100100, .xformInvOfb),
     (0b00110100, .xformInvCtr)].all decodesTo = true := by decide

theorem test_decode_padding_and_container :
    [(0b00000101, .padData), (0b00000110, .unpadData), (0b00000111, .encodeContainer),
     (0b00001000, .decodeContainer)].all decodesTo = true := by decide

theorem test_decode_no_mode :
    [(0b01000001, .encryptNoMode 4 .rng), (0b11110001, .encryptNoMode 7 .reg), (0b01010010, .decryptNoMode 5),
     (0b01100011, .xformFwdNoMode 6), (0b01110100, .xformInvNoMode 7)].all decodesTo = true := by decide

/-- V-ERR-1 to V-ERR-7: the illegal words. -/
theorem test_illegal_words :
    [0x000, 0x100, 0x101, 0x092, 0x015, 0x009, 0x088].all (fun w => (decodeTableWord 32 w).isNone) = true := by decide

theorem test_written_form : Instr.written (.encryptNoMode 5 .reg) = "ENCRYPT.m5 reg" := by decide

/-! ### The toy primitive of 95_test_vectors.md, section 2.0 -/

/-- ToyEnc(K, X) = rotl1(X ⊕ K[0..16)). -/
def toyEnc (k : Key) (x : Block) : Block :=
  Vector.ofFn fun j => x[(j.val + 1) % 16]'(by omega) ^^^ k[(j.val + 1) % 16]'(by omega)

/-- ToyDec(K, Y) = rotr1(Y) ⊕ K[0..16). -/
def toyDec (k : Key) (y : Block) : Block := Vector.ofFn fun j => y[(j.val + 15) % 16]'(by omega) ^^^ k[j.val]

theorem toyDec_toyEnc (k : Key) (x : Block) : toyDec k (toyEnc k x) = x := by
  apply Vector.ext
  intro j hj
  have h : (j + 15 + 1) % 16 = j := by omega
  simp only [toyDec, toyEnc, Vector.getElem_ofFn, Nat.mod_add_mod, h]
  rw [BitVec.xor_assoc, BitVec.xor_self, BitVec.xor_zero]

/-- The toy primitive. -/
def toy : BlockPrimitive where
  enc := toyEnc
  dec := toyDec
  dec_enc := toyDec_toyEnc

/-- KT = 00 01 … 1F. -/
def kt : Key := Vector.ofFn fun j => BitVec.ofNat 8 j.val

/-- VT. -/
def vt : Block :=
  #v[0x3A, 0x7F, 0x01, 0xC4, 0x59, 0xE2, 0x0B, 0x96, 0xD8, 0x25, 0x6C, 0xF3, 0x40, 0xBD, 0x17, 0x8E]

/-- P32. -/
def p32 : Bytes := (List.range 26).map (fun j => BitVec.ofNat 8 (0x41 + j)) ++ [0x30, 0x31, 0x32, 0x33, 0x34, 0x35]

/-- "HELLO". -/
def hello : Bytes := [0x48, 0x45, 0x4C, 0x4C, 0x4F]

/-- The ciphertext that CBC gives for HELLO (V-PIPE-2). -/
def helloCbc : Bytes :=
  [0x3B, 0x4F, 0x8B, 0x12, 0xEC, 0x06, 0x9A, 0xDB, 0x27, 0x6D, 0xF3, 0x47, 0xBB, 0x12, 0x8A, 0x72]

/-- V-CBC-1. -/
theorem test_cbc_forward : fwd toy .cbc kt vt p32 =
    [0x3C, 0x40, 0x83, 0x18, 0xA1, 0x4A, 0xD9, 0x99, 0x66, 0x2D, 0xB4, 0x01, 0xFE, 0x56, 0xD1, 0x7B,
     0x13, 0xD2, 0x4F, 0xF0, 0x19, 0x88, 0xC6, 0x37, 0x7E, 0x8E, 0x3B, 0xC0, 0x68, 0xEB, 0x41, 0x6D] := by
  decide +kernel

/-- V-CFB-1. -/
theorem test_cfb_forward : fwd toy .cfb kt vt (p32.take 21) =
    [0x3F, 0x41, 0x84, 0x19, 0xA2, 0x4B, 0xD6, 0x98, 0x65, 0x2C, 0xB3, 0x00, 0xFD, 0x57, 0xCE, 0x6A,
     0x11, 0xD4, 0x49, 0xF2, 0x1B] := by
  decide +kernel

/-- V-CFB-3: the inverse on P21 differs from the forward transform from block 1 on. -/
theorem test_cfb_inverse : inv toy .cfb kt vt (p32.take 21) =
    [0x3F, 0x41, 0x84, 0x19, 0xA2, 0x4B, 0xD6, 0x98, 0x65, 0x2C, 0xB3, 0x00, 0xFD, 0x57, 0xCE, 0x6A,
     0x12, 0x13, 0x14, 0x15, 0x16] := by
  decide +kernel

/-- V-OFB-1. -/
theorem test_ofb : fwd toy .ofb kt vt (p32.take 21) =
    [0x3F, 0x41, 0x84, 0x19, 0xA2, 0x4B, 0xD6, 0x98, 0x65, 0x2C, 0xB3, 0x00, 0xFD, 0x57, 0xCE, 0x6A,
     0x53, 0x97, 0x0D, 0xB7, 0x5D] := by
  decide +kernel

/-- V-CTR-2. -/
theorem test_ctr : inv toy .ctr kt vt (p32.take 21) =
    [0x3F, 0x41, 0x84, 0x19, 0xA2, 0x4B, 0xD6, 0x98, 0x65, 0x2C, 0xB3, 0x00, 0xFD, 0x57, 0xCE, 0x6A,
     0x2F, 0x51, 0x94, 0x09, 0xB2] := by
  decide +kernel

/-- V-CTR-3: the carry goes to the byte before. -/
theorem test_counter_carry : ctrblk (blockOf (List.replicate 15 0 ++ [0xFF])) 1
    = blockOf (List.replicate 14 0 ++ [0x01, 0x00]) := by
  decide +kernel

/-- V-PIPE-2: ENCRYPT.cbc of HELLO under VT. -/
theorem test_encrypt_cbc_output : (encryptOutput toy .cbc .reg kt vt hello).out = vt.toList ++ helloCbc := by
  decide +kernel

/-- V-PIPE-1: ENCRYPT.ctr of HELLO under VT. -/
theorem test_encrypt_ctr_output :
    (encryptOutput toy .ctr .rng kt vt hello).out = vt.toList ++ [0x36, 0x46, 0x8B, 0x11, 0xA8] := by
  decide +kernel

/-- The output bytes of a result, or its error code. -/
def shown (r : Except ErrorKind Output) : Bytes ⊕ BitVec 4 :=
  match r with
  | .ok o => .inl o.out
  | .error e => .inr e.code

/-- V-PIPE-5: DECRYPT.cbc of V-PIPE-2's container. -/
theorem test_decrypt_cbc_output : shown (decryptOutput toy .cbc kt (vt.toList ++ helloCbc)) = .inl hello := by
  decide +kernel

/-- V-PIPE-6: DECRYPT.cbc of that container under the key 01 02 … 20. -/
theorem test_decrypt_cbc_wrong_key :
    shown (decryptOutput toy .cbc (Vector.ofFn fun j => BitVec.ofNat 8 (j.val + 1)) (vt.toList ++ helloCbc))
      = .inr 3 := by
  decide +kernel

/-- R71: a block on a port has byte 0 at bits [7:0]. -/
theorem test_block_on_port :
    blockToPort (blockOf [0x01, 0x02]) = 0x0201 ∧ blockOfPort 0x0201 = blockOf [0x01, 0x02] := by
  decide +kernel

/-! ### Single steps: a command right after reset -/

/-- What the step after a placed word shows. -/
def afterStep {α : Type} (f : State → α) (s : State) (w : Nat) : Option α :=
  match step (s.withFetchWord 32 w) with
  | .next t => some (f t)
  | .fault _ | .refused _ => none

/-- The word STATUS reads. -/
def statusWord (s : State) : Word := s.status.toWord

/-- OBUF's listed bytes. -/
def output (s : State) : Bytes := s.obuf.map (·.2)

/-- The input string in IBUF, over the reset state. -/
def withInput (x : Bytes) (s : State) : State :=
  { s with ibuf := Memory.ofBytes 0 x, inLen := BitVec.ofNat 32 x.length }

/-- KT and VT loaded and declared. -/
def keyed : State := { State.reset with key := kt, keyLen := 32, iv := vt, ivLen := 16 }

/-- V-ERR-10, and the same check for every command that reads the key. -/
theorem test_key_is_checked :
    [0x01, 0x11, 0x21, 0x31, 0x81, 0x91, 0xA1, 0xB1].all (fun w =>
      afterStep statusWord State.reset w == some 0x1206) = true ∧
    [0x02, 0x12, 0x22, 0x32].all (fun w => afterStep statusWord State.reset w == some 0x2206) = true ∧
    [0x03, 0x13, 0x23, 0x33].all (fun w => afterStep statusWord State.reset w == some 0x3206) = true ∧
    [0x04, 0x14, 0x24, 0x34].all (fun w => afterStep statusWord State.reset w == some 0x4206) = true :=
  ⟨by decide, by decide, by decide, by decide⟩

/-- V-ERR-8, V-ERR-9: UnsupportedMode comes before the key and the capacity. -/
theorem test_unsupported_mode :
    afterStep statusWord State.reset 0xC1 = some 0x1106 ∧ afterStep statusWord State.reset 0x52 = some 0x2106
      ∧ afterStep statusWord State.reset 0x63 = some 0x3106
      ∧ afterStep statusWord { State.reset with inLen := 0x00100000 } 0x44 = some 0x4106 :=
  ⟨by decide, by decide, by decide, by decide⟩

/-- V-ERR-3, V-ERR-5: illegal words complete with code 5 and their OP in LAST_OP. -/
theorem test_illegal_command :
    afterStep statusWord State.reset 0x101 = some 0x1506 ∧ afterStep statusWord State.reset 0x15 = some 0x5506 :=
  ⟨by decide, by decide⟩

/-- PAD on "abc" (section 2.1). -/
theorem test_pad : afterStep (fun s => (output s, statusWord s)) (withInput [0x61, 0x62, 0x63] State.reset) 0x05
    = some ([0x61, 0x62, 0x63] ++ List.replicate 13 0x0D, 0x500A) := by decide

/-- V-UNPAD-1. -/
theorem test_unpad :
    afterStep (fun s => (output s, statusWord s)) (withInput ([0x61, 0x62, 0x63] ++ List.replicate 13 0x0D) State.reset) 6
      = some ([0x61, 0x62, 0x63], 0x600A) := by decide

/-- V-UNPAD-5: one of the last N bytes is not N. -/
theorem test_unpad_bad_byte :
    afterStep statusWord (withInput (List.replicate 11 0x61 ++ [5, 5, 4, 5, 5]) State.reset) 6 = some 0x6306 := by decide

/-- V-CON-1. -/
theorem test_encode : afterStep (fun s => (output s, statusWord s)) (withInput [0xAA, 0xBB] keyed) 7
    = some (vt.toList ++ [0xAA, 0xBB], 0x700A) := by decide

/-- V-CON-2: DECODE gives the ciphertext and loads the IV. -/
theorem test_decode : afterStep (fun s => (output s, s.iv, s.ivLen)) (withInput (vt.toList ++ [0xAA, 0xBB]) State.reset) 8
    = some ([0xAA, 0xBB], vt, 16) := by decide

/-- V-CON-6. -/
theorem test_decode_short : afterStep statusWord (withInput (List.replicate 15 0) State.reset) 8 = some 0x8406 := by decide

/-- V-ERR-12: IVSRC = 0 ignores IVLEN, takes one draw, and leaves IVR and IVLEN alone. -/
theorem test_encrypt_rng_ignores_ivlen :
    afterStep (fun s => (statusWord s, s.draws.rng, s.ivLen)) { keyed with ivLen := 0 } 0x01 = some (0x100A, 1, 0) := by
  decide

/-- V-ERR-11, and a draw is not taken where IVSRC = 1. -/
theorem test_encrypt_reg_checks_ivlen :
    afterStep (fun s => (statusWord s, s.draws.rng)) { keyed with ivLen := 0 } 0x81 = some (0x1206, 0)
      ∧ afterStep (fun s => (statusWord s, s.draws.rng)) keyed 0xB1 = some (0x100A, 0) :=
  ⟨by decide, by decide⟩

/-- V-PIPE-8, V-PIPE-9: DECRYPT.cbc of 16 bytes is bad padding, DECRYPT.ctr of 16 bytes is empty. -/
theorem test_decrypt_of_bare_iv :
    afterStep statusWord (withInput vt.toList keyed) 0x02 = some 0x2306
      ∧ afterStep (fun s => (statusWord s, s.outLen)) (withInput vt.toList keyed) 0x32 = some (0x200A, 0) :=
  ⟨by decide, by decide⟩

/-- V-ERR-19, V-ERR-20: only CBC needs whole blocks. -/
theorem test_decrypt_alignment :
    afterStep statusWord (withInput (vt.toList ++ [1]) keyed) 0x02 = some 0x2306
      ∧ afterStep statusWord (withInput (vt.toList ++ [1]) keyed) 0x12 = some 0x200A
      ∧ afterStep statusWord (withInput (vt.toList ++ [1]) keyed) 0x22 = some 0x200A :=
  ⟨by decide, by decide, by decide⟩

/-- V-ERR-21, V-ERR-22, V-CBC-5. -/
theorem test_xform_fwd_alignment :
    afterStep statusWord (withInput hello keyed) 0x03 = some 0x3306
      ∧ [0x13, 0x23, 0x33].all (fun w => afterStep statusWord (withInput hello keyed) w == some 0x300A) = true
      ∧ afterStep (fun s => (statusWord s, s.outLen)) keyed 0x03 = some (0x300A, 0) :=
  ⟨by decide, by decide, by decide⟩

/-- V-CBC-6: XFORM_INV.cbc of 17 bytes; the other modes take them. -/
theorem test_xform_inv_alignment :
    afterStep statusWord (withInput (vt.toList ++ [1]) keyed) 0x04 = some 0x4306
      ∧ [0x14, 0x24, 0x34].all (fun w => afterStep statusWord (withInput hello keyed) w == some 0x400A) = true :=
  ⟨by decide, by decide⟩

/-- V-ERR-16: 0x00100000 bytes exceed every allowed IBUF_SIZE. -/
theorem test_capacity : ({ keyed with inLen := 0x00100000 } : State).precheck (decryptNeeds .cbc) = some .capacityExceeded := by
  rw [State.precheck, if_neg (by decide), if_neg (by decide), if_pos]
  have := Config.ibufSize_le
  show Config.ibufSize < 1048576
  omega

/-! ### Single steps: the host port -/

/-- What one step with this input shows. -/
def afterEvent {α : Type} (f : State → α) (s : State) (e : Event) : Option α :=
  match step { s with events := [e] } with
  | .next t => some (f t)
  | .fault _ | .refused _ => none

/-- The engine while PAD runs. -/
def running : State := State.reset.accept 0x05

/-- V-REG-1. -/
theorem test_id : afterEvent (·.rdata) running (rd 0x000) = some 0x434D4507 := by decide

/-- V-REG-2, by the host's `ldiv` words. -/
theorem test_iv_lanes : afterEvent (fun s => (s.iv[0], s.iv[3], s.iv[4])) State.reset (wr 0x060 0x03020100)
    = some (0x00, 0x03, 0x00) ∧ ldivMacro vt.toList
      = [wr 0x060 0xC4017F3A, wr 0x064 0x960BE259, wr 0x068 0xF36C25D8, wr 0x06C 0x8E17BD40, wr 0x014 0x10] :=
  ⟨by decide, by decide⟩

/-- V-REG-3. -/
theorem test_keylen_keeps_eight_bits : afterEvent (·.keyLen) State.reset (wr 0x010 0x120) = some 0x20
    ∧ afterEvent (·.rdata) keyed (rd 0x040) = some 0 := ⟨by decide, by decide⟩

/-- V-REG-5: ERR and ERRCODE survive ACK. -/
theorem test_ack_keeps_error :
    afterEvent statusWord { State.reset with status := (Status.reset.accept 2).fail .invalidPadding } (wr 0x004 2)
      = some 0x2304 := by decide

/-- V-REG-6: a filtered write is dropped and recorded, and CLR_IGN clears the record while BUSY = 1. -/
theorem test_busy_filter : afterEvent (fun s => (s.inLen, statusWord s)) running (wr 0x018 9) = some (0, 0x5011)
    ∧ afterEvent statusWord { running with status := running.status.markIgnored } (wr 0x004 4) = some 0x5001 :=
  ⟨by decide, by decide⟩

/-- V-REG-7: IRQ_EN gates irq, and DONE stays. -/
theorem test_irq_enable :
    afterEvent (fun s => (s.irq, s.status.done)) { State.reset with status := running.status.succeed } (wr 0x020 1)
      = some (true, true)
    ∧ afterEvent (fun s => (s.irq, s.status.done))
        { State.reset with status := running.status.succeed, doneIe := true } (wr 0x020 0) = some (false, true) :=
  ⟨by decide, by decide⟩

/-- V-REG-8: SRST overrides the other bits, and resets KEY but not IBUF. -/
theorem test_soft_reset : afterEvent (fun s => (s.key, s.ibuf, s.status)) (withInput hello keyed) (wr 0x004 7)
    = some (Vector.replicate 32 0, Memory.ofBytes 0 hello, Status.reset) := by decide

/-- V-REG-9. -/
theorem test_reserved_and_obuf_write : afterEvent (·.rdata) keyed (rd 0x030) = some 0
    ∧ afterEvent (fun s => (s.obuf, s.status.ignored)) running (wr 0x200000 9) = some ([], false) :=
  ⟨by decide, by decide⟩

/-- The words of `ldin "HELLO"` (section 2.7) and of `cmd ENCRYPT.ctr reg` (P1). -/
theorem test_macros : ldinMacro hello = [wr 0x100000 0x4C4C4548, wr 0x100004 0x0000004F, wr 0x018 5]
    ∧ cmdMacro .encryptCtrReg = [wr 0x00C 0xB1] := ⟨by decide, by decide⟩

/-- `rdout` of V-CON-1's 18 bytes, whose words section 2.6 lists. -/
theorem test_rdout : rdoutBytes 18 [0x03020100, 0x07060504, 0x0B0A0908, 0x0F0E0D0C, 0x0000BBAA]
    = (List.range 16).map (BitVec.ofNat 8) ++ [0xAA, 0xBB] ∧ (rdoutMacro 18).length = 6 := ⟨by decide, by decide⟩

/-- R64: an IBUF word goes to four bytes, lane 0 first. -/
theorem test_ibuf_word : afterEvent (·.ibuf) State.reset (wr 0x100004 0x03020100)
    = some [(4, 0), (5, 1), (6, 2), (7, 3)] := by decide

/-! ### Witnesses: for each obligation with hypotheses, states and operands that meet them together -/

/-- The idle engine after reset with these inputs to come. -/
def idleWith (es : List Event) : State := { State.reset with events := es }

/-- The engine running PAD with these inputs to come. -/
def busyWith (es : List Event) : State := { running with events := es }

/-- The engine held in reset with these inputs to come. -/
def heldWith (es : List Event) : State := { State.reset with rstN := false, events := es }

theorem busyWith_inv (es : List Event) : (busyWith es).Inv where
  status := ⟨fun _ => ⟨rfl, rfl, rfl, rfl⟩, ⟨fun h => (by cases h), fun h => absurd rfl h⟩, fun _ => rfl,
    show (0 : BitVec 4).toNat < 7 by decide⟩
  lastOp := rfl
  ibuf := Memory.fits_nil _
  obuf := Memory.fits_nil _
  output n := by simp [busyWith, running, Status.accept]
  noOutput _ := rfl
  outFits := by simp [busyWith, running]
  heldInReset h := by cases h

theorem witness_DecodeEncodeRoundTrip : WellFormed (.encryptNoMode 7 .reg) ∧ WellFormed (.decryptNoMode 4) := by decide

theorem witness_EncodeOfDecodedWord : decode 0xF1 = .ok (.encryptNoMode 7 .reg) := by decide

theorem witness_DecodeAcceptsExactlyLegalWords : Legal 0x74 ∧ Legal 0xB1 ∧ ¬ Legal 0x09 := by decide

theorem witness_StepRunsDecodedCommand :
    CompletionNext (busyWith [.sequencer]) [] ∧ decode (busyWith [.sequencer]).cmdLatch = .ok .padData :=
  ⟨⟨rfl, rfl, rfl⟩, by decide⟩

theorem witness_PlacedWordIsRunNext : decode (BitVec.ofNat 32 (0xB1 % 2 ^ 32)) = .ok .encryptCtrReg := by decide

theorem witness_CompletionEndsTheCommand :
    (busyWith [.sequencer]).Inv ∧ CompletionNext (busyWith [.sequencer]) [] := ⟨busyWith_inv _, rfl, rfl, rfl⟩

theorem witness_QuietStepHoldsOrCompletes :
    ((heldWith []).events = [] ∧ (heldWith []).rstN = false)
      ∧ ((idleWith []).events = [] ∧ (idleWith []).status.busy = false)
      ∧ (busyWith []).events = [] := ⟨⟨rfl, rfl⟩, ⟨rfl, rfl⟩, rfl⟩

theorem witness_StepKeepsConsistency :
    (busyWith [wr 0x004 2]).Inv ∧ ∃ t, step (busyWith [wr 0x004 2]) = .next t := ⟨busyWith_inv _, _, rfl⟩

theorem witness_ConstantRegistersRead : ReadNext (busyWith [rd 0x000]) 0x000 [] ∧ ReadNext (idleWith [rd 0x024]) 0x024 []
    ∧ ReadNext (busyWith [rd 0x028]) 0x028 [] := ⟨⟨rfl, rfl⟩, ⟨rfl, rfl⟩, ⟨rfl, rfl⟩⟩

/-- The ends of every reserved and unbacked range (the unbacked part of the OBUF region is empty at the largest size). -/
theorem witness_ReservedAddressesReadZero :
    (∀ off ∈ [0x02C, 0x03C, 0x070, 0x0FC, 0x100, 0xFFFFC, 0x100000 + Config.ibufSize, 0x1FFFFC, 0x300000, 0x3FFFFC],
      off % 4 = 0 ∧ Reserved off ∧ ReadNext (idleWith [rd off]) off [] ∧ WriteNext (busyWith [wr off 1]) off 1 [])
    ∧ (Config.obufSize ≤ 0xFFFFC → Reserved (0x200000 + Config.obufSize) ∧ Reserved 0x2FFFFC) := by
  have h1 := Config.ibufSize_le
  have h2 := Config.ibufSize_mod
  refine ⟨fun off h => ?_, fun h => ?_⟩
  · simp only [List.mem_cons, List.not_mem_nil, or_false] at h
    refine ⟨by omega, by unfold Reserved; omega, ⟨rfl, rfl⟩, ⟨rfl, rfl⟩⟩
  · unfold Reserved; omega

/-- Each clause at the ends of its ranges, and the ranges apart. -/
theorem witness_BusyFilter :
    (∀ off ∈ [0x00C, 0x06C, 0x100000, 0x100000 + (Config.ibufSize - 4), 0x020, 0x004, 0x000, 0x028, 0x200000,
        0x200000 + (Config.obufSize - 4), 0x02C],
      off % 4 = 0 ∧ WriteNext (busyWith [wr off 1]) off 1 [] ∧ (busyWith [wr off 1]).status.busy = true)
    ∧ 0x00C ∈ filteredOffsets ∧ 0x06C ∈ filteredOffsets ∧ 0x028 ∈ readOnlyOffsets ∧ Reserved 0x02C
    ∧ (∀ off ∈ filteredOffsets ++ [0x020, 0x004], ¬ off ∈ readOnlyOffsets ∧ ¬ Reserved off)
    ∧ ¬ Reserved (0x100000 + (Config.ibufSize - 4)) ∧ ¬ Reserved (0x200000 + (Config.obufSize - 4)) := by
  have h0 := Config.ibufSize_ge
  have h1 := Config.ibufSize_le
  have h2 := Config.ibufSize_mod
  have h3 := Config.obufSize_eq
  refine ⟨fun off h => ?_, by decide, by decide, by decide, by unfold Reserved; omega, fun off h => ⟨?_, ?_⟩,
    by unfold Reserved; omega, by unfold Reserved; omega⟩
  · simp only [List.mem_cons, List.not_mem_nil, or_false] at h
    exact ⟨by omega, ⟨rfl, rfl⟩, rfl⟩
  · revert off; decide
  · have hle : ∀ off ∈ filteredOffsets ++ [0x020, 0x004], off ≤ 0x028 ∨ 0x040 ≤ off ∧ off ≤ 0x06C := by decide
    have := hle off h
    unfold Reserved
    omega

theorem witness_ReadsWhileBusy : (0x05C, 0) ∈ ordinaryReads running
    ∧ ∀ off ∈ [0x060, 0x06C, 0x200000, 0x200000 + (Config.obufSize - 4), 0x01C, 0x008, 0x05C],
    off % 4 = 0 ∧ (busyWith [rd off]).Inv ∧ (busyWith [rd off]).status.busy = true ∧ ReadNext (busyWith [rd off]) off [] := by
  have h2 := Config.ibufSize_mod
  have h3 := Config.obufSize_eq
  refine ⟨by simp [ordinaryReads], fun off h => ?_⟩
  simp only [List.mem_cons, List.not_mem_nil, or_false] at h
  exact ⟨by omega, busyWith_inv _, rfl, rfl, rfl⟩

theorem witness_ReadsHaveNoSideEffect : (heldWith [.hostRead 0]).events = [.hostRead 0] := rfl

theorem witness_ControlActions : ReadNext (idleWith [rd 4]) 0x004 []
    ∧ (WriteNext (busyWith [wr 4 7]) 0x004 7 [] ∧ (7 : Word).getLsbD 0 = true)
    ∧ (WriteNext (busyWith [wr 4 6]) 0x004 6 [] ∧ (6 : Word).getLsbD 0 = false) :=
  ⟨⟨rfl, rfl⟩, ⟨⟨rfl, rfl⟩, rfl⟩, ⟨rfl, rfl⟩, rfl⟩

theorem witness_InterruptEnableRegister : WriteNext (busyWith [wr 0x020 1]) 0x020 1 []
    ∧ ReadNext (idleWith [rd 0x020]) 0x020 [] := ⟨⟨rfl, rfl⟩, ⟨rfl, rfl⟩⟩

theorem witness_LengthRegistersStore : (idleWith []).status.busy = false
    ∧ (∀ off ∈ [0x010, 0x014, 0x018], WriteNext (idleWith [wr off 0x120]) off 0x120 [])
    ∧ (∀ off ∈ [0x000, 0x00C, 0x010, 0x014, 0x018, 0x01C, 0x05C], ReadNext (idleWith [rd off]) off [])
    ∧ (0x000, 0x434D4507) ∈ ordinaryReads (idleWith [rd 0x000]) ∧ (0x05C, 0) ∈ ordinaryReads (idleWith [rd 0x05C]) :=
  ⟨rfl, fun _ _ => ⟨rfl, rfl⟩, fun _ _ => ⟨rfl, rfl⟩, by simp [ordinaryReads], by simp [ordinaryReads]⟩

theorem witness_KeyRegisters : (∀ k ∈ [0, 7], k < 8 ∧ (idleWith [wr (0x040 + 4 * k) 1]).status.busy = false
      ∧ WriteNext (idleWith [wr (0x040 + 4 * k) 1]) (0x040 + 4 * k) 1 []
      ∧ ReadNext (busyWith [rd (0x040 + 4 * k)]) (0x040 + 4 * k) [])
    ∧ (∃ t, step (idleWith [wr 0x040 1]) = .next t ∧ t.key ≠ (idleWith [wr 0x040 1]).key)
    ∧ ∃ t, step { keyed with events := [.resetPin false] } = .next t ∧ t.key ≠ keyed.key :=
  ⟨fun k hk => ⟨by revert k; decide, rfl, ⟨rfl, rfl⟩, ⟨rfl, rfl⟩⟩, ⟨_, rfl, by decide⟩, _, rfl, by decide⟩

theorem witness_IvRegisters : (∀ k ∈ [0, 3], k < 4 ∧ (idleWith [wr (0x060 + 4 * k) 1]).status.busy = false
      ∧ WriteNext (idleWith [wr (0x060 + 4 * k) 1]) (0x060 + 4 * k) 1 []
      ∧ ReadNext (idleWith [rd (0x060 + 4 * k)]) (0x060 + 4 * k) [])
    ∧ (∃ t, step (idleWith [wr 0x060 1]) = .next t ∧ t.iv ≠ (idleWith [wr 0x060 1]).iv)
    ∧ (∃ t, step ((withInput vt.toList State.reset).withFetchWord 32 8) = .next t ∧ t.iv ≠ State.reset.iv)
    ∧ ∃ t, step { keyed with events := [wr 4 1] } = .next t ∧ t.iv ≠ keyed.iv :=
  ⟨fun k hk => ⟨by revert k; decide, rfl, ⟨rfl, rfl⟩, ⟨rfl, rfl⟩⟩, ⟨_, rfl, by decide⟩, ⟨_, rfl, by decide⟩, _, rfl, by decide⟩

theorem witness_IbufWordAccess : ∀ m ∈ [0, Config.ibufSize / 4 - 1], 4 * m < Config.ibufSize
    ∧ (idleWith [wr (0x100000 + 4 * m) 1]).status.busy = false
    ∧ WriteNext (idleWith [wr (0x100000 + 4 * m) 1]) (0x100000 + 4 * m) 1 []
    ∧ ReadNext (busyWith [rd (0x100000 + 4 * m)]) (0x100000 + 4 * m) [] := by
  have h0 := Config.ibufSize_ge
  intro m h
  simp only [List.mem_cons, List.not_mem_nil, or_false] at h
  exact ⟨by omega, rfl, ⟨rfl, rfl⟩, ⟨rfl, rfl⟩⟩

theorem witness_ObufWordAccess : (∀ m ∈ [0, Config.obufSize / 4 - 1], 4 * m < Config.obufSize
      ∧ (idleWith [rd (0x200000 + 4 * m)]).status.busy = false
      ∧ ReadNext (idleWith [rd (0x200000 + 4 * m)]) (0x200000 + 4 * m) [])
    ∧ (∃ t, (idleWith [wr 0x00C 5]).events = [.hostWrite (wordAddr 0x00C) 5] ∧ step (idleWith [wr 0x00C 5]) = .next t)
    ∧ ∃ t, (busyWith [rd 0x200000]).events = [.hostRead (wordAddr 0x200000)]
      ∧ step (busyWith [rd 0x200000]) = .next t := by
  have h0 := Config.ibufSize_ge
  have h3 := Config.obufSize_eq
  refine ⟨fun m h => ?_, ⟨_, rfl, rfl⟩, _, rfl, rfl⟩
  simp only [List.mem_cons, List.not_mem_nil, or_false] at h
  exact ⟨by omega, rfl, ⟨rfl, rfl⟩⟩

theorem witness_StatusWordLayout : ReadNext (busyWith [rd 8]) 0x008 [] := ⟨rfl, rfl⟩

theorem witness_AcceptanceOfACommand :
    (WriteNext (idleWith [wr 0x00C 9]) 0x00C 9 [] ∧ (idleWith [wr 0x00C 9]).status.busy = false)
    ∧ (WriteNext (busyWith [wr 0x00C 9]) 0x00C 9 [] ∧ (busyWith [wr 0x00C 9]).status.busy = true)
    ∧ ∃ t, step (idleWith [wr 0x00C 9]) = .next t ∧ t.status.busy = true :=
  ⟨⟨⟨rfl, rfl⟩, rfl⟩, ⟨⟨rfl, rfl⟩, rfl⟩, _, rfl, rfl⟩

theorem witness_OnlyCompletionOrResetEndsACommand :
    (∃ t, step (busyWith [.sequencer]) = .next t ∧ (busyWith [.sequencer]).status.busy = true ∧ t.status.busy = false)
    ∧ (∃ t, step (busyWith [wr 4 1]) = .next t ∧ t.status.busy = false)
    ∧ ∃ t, step (busyWith [.resetPin false]) = .next t ∧ t.status.busy = false :=
  ⟨⟨_, rfl, rfl, by decide⟩, ⟨_, rfl, by decide⟩, _, rfl, by decide⟩

theorem witness_InterruptOutput : (∃ t, exec .padData running = .next t)
    ∧ (WriteNext (busyWith [wr 4 1]) 0x004 1 [] ∧ (1 : Word).getLsbD 0 = true)
    ∧ (WriteNext (idleWith [wr 4 2]) 0x004 2 [] ∧ (2 : Word).getLsbD 1 = true)
    ∧ (WriteNext (idleWith [wr 0x00C 5]) 0x00C 5 [] ∧ (idleWith [wr 0x00C 5]).status.busy = false)
    ∧ CompletionNext (busyWith [.sequencer]) []
    ∧ ((heldWith [.resetPin true]).rstN = false ∧ (heldWith [.resetPin true]).events = [.resetPin true])
    ∧ WriteNext (busyWith [wr 0x020 0]) 0x020 0 [] :=
  ⟨⟨_, rfl⟩, ⟨⟨rfl, rfl⟩, rfl⟩, ⟨⟨rfl, rfl⟩, rfl⟩, ⟨⟨rfl, rfl⟩, rfl⟩, ⟨rfl, rfl, rfl⟩, ⟨rfl, rfl⟩, rfl, rfl⟩

theorem witness_HardwareReset : (busyWith [.resetPin false]).events = [.resetPin false]
    ∧ (∀ e ∈ [wr 0x00C 5, rd 8, .sequencer, .resetPin true], (heldWith [e]).rstN = false ∧ (heldWith [e]).events = [e]) :=
  ⟨rfl, fun _ _ => ⟨rfl, rfl⟩⟩

theorem witness_SoftReset : WriteNext (busyWith [wr 4 7]) 0x004 7 [] ∧ (7 : Word).getLsbD 0 = true := ⟨⟨rfl, rfl⟩, rfl⟩

theorem witness_SoftResetAbandonsTheCommand :
    (busyWith [wr 4 1, .sequencer, wr 0x00C 5]).rstN = true ∧ (1 : Word).getLsbD 0 = true
      ∧ (busyWith [wr 4 1, .sequencer, wr 0x00C 5]).events
        = [.hostWrite (wordAddr 4) 1, .sequencer, .hostWrite (wordAddr 0x00C) 5] := ⟨rfl, rfl, rfl⟩

theorem witness_CoincidentEventsInEitherOrder : (busyWith []).rstN = true ∧ (busyWith []).status.busy = true
    ∧ (1 : Word).getLsbD 0 = true ∧ (2 : Word).getLsbD 0 = false ∧ (2 : Word).getLsbD 1 = true
    ∧ (busyWith [.resetPin false]).events = [.resetPin false] := ⟨rfl, rfl, rfl, rfl, rfl, rfl⟩

/-- Whether a result is the string. -/
def gives (r : Except ErrorKind Bytes) (z : Bytes) : Bool :=
  match r with
  | .ok y => y == z
  | .error _ => false

theorem eq_of_gives {r : Except ErrorKind Bytes} {z : Bytes} (h : gives r z = true) : r = .ok z := by
  cases r with
  | ok y => simp [gives] at h; rw [h]
  | error e => cases h

theorem unpad_full_block : unpad (List.replicate 16 0x10) = .ok [] := eq_of_gives (by decide)

theorem unpad_zero_block : unpad (List.replicate 16 0) = .error .invalidPadding := rfl

theorem witness_UnpadInvertsPad : unpad (List.replicate 16 0x10) = .ok [] := unpad_full_block

theorem witness_UnpadAcceptsExactlyPaddedStrings : ∀ z : Bytes, unpad (List.replicate 16 0) ≠ .ok z := by
  intro z
  rw [unpad_zero_block]
  simp

theorem witness_ContainerSplit : (List.replicate 15 (0 : Byte)).length < 16 ∧ 16 ≤ vt.toList.length := by decide

theorem witness_CbcRecurrence : p32.length % 16 = 0 ∧ 0 < blockCount p32 ∧ 1 < blockCount p32 := by decide

theorem witness_CfbRecurrence : 0 < blockCount (p32.take 21) ∧ 1 < blockCount (p32.take 21) := by decide

theorem witness_OfbKeystream : 1 < blockCount (p32.take 17) := by decide

theorem witness_CtrKeystream : 1 < blockCount (p32.take 17) := by decide

theorem witness_CounterIsBigEndian : Config.ibufSize / 16 + 1 < Config.ibufSize / 16 + 2 := by omega

theorem witness_CtrInvolution : p32.length = 32 := by decide

theorem witness_TransformsKeepLength : Admissible .cbc p32 ∧ Admissible .ofb (p32.take 17) :=
  ⟨fun _ => by decide, fun h => by cases h⟩

theorem witness_InverseUndoesForward : Admissible .cbc p32 ∧ Admissible .cfb (p32.take 17) :=
  ⟨fun _ => by decide, fun h => by cases h⟩

/-- The keyed engine with IN_LEN = n. -/
def keyedLen (n : Nat) : State := { keyed with inLen := BitVec.ofNat 32 n }

theorem toNat_keyedLen {n : Nat} (h : n ≤ Config.ibufSize) : (keyedLen n).inLen.toNat = n := by
  have := Config.ibufSize_le
  simp only [keyedLen, BitVec.toNat_ofNat]
  omega

theorem witness_EncryptCompletes : (∀ c ∈ encryptForms, c ∈ encryptForms ∧ keyed.keyLen = 32 ∧ (c.2.2 = .reg → keyed.ivLen = 16))
    ∧ ∀ n ∈ [0, Config.ibufSize], (keyedLen n).inLen.toNat ≤ Config.ibufSize := by
  refine ⟨fun c h => ⟨h, rfl, fun _ => rfl⟩, fun n h => ?_⟩
  simp only [List.mem_cons, List.not_mem_nil, or_false] at h
  rw [toNat_keyedLen] <;> omega

theorem witness_DecryptStreamCompletes : ((.decryptCtr, .ctr) ∈ decryptForms ∧ Mode.ctr ≠ .cbc ∧ keyed.keyLen = 32)
    ∧ ∀ n ∈ [16, Config.ibufSize], 16 ≤ (keyedLen n).inLen.toNat ∧ (keyedLen n).inLen.toNat ≤ Config.ibufSize := by
  have := Config.ibufSize_ge
  refine ⟨by decide, fun n h => ?_⟩
  simp only [List.mem_cons, List.not_mem_nil, or_false] at h
  rw [toNat_keyedLen] <;> omega

theorem input_withInput (x : Bytes) (s : State) (h : x.length < 2 ^ 32) : (withInput x s).input = x := by
  have hl : (withInput x s).inLen.toNat = x.length := by
    simp only [withInput, BitVec.toNat_ofNat]
    omega
  apply List.ext_getElem
  · rw [State.length_input, hl]
  · intro n h1 h2
    simp [State.ibufByte, withInput, Memory.read?_ofBytes, h2]

/-- A one-block CBC container of the instance's own primitive, with the zero IV, that deciphers to the block. -/
def containerFor (b : Block) : Bytes := List.replicate 16 0 ++ (Config.primitive.enc kt b).toList

/-- What DECRYPT.cbc hands to unpad. -/
def deciphered (s : State) : Bytes :=
  inv Config.primitive .cbc s.key (blockOf (s.input.take 16)) (s.input.drop 16)

theorem xorBlock_zero (b : Block) : xorBlock b (blockOf (List.replicate 16 0)) = b := by
  apply Vector.ext
  intro j hj
  have hz : (blockOf (List.replicate 16 0))[j] = 0 := by
    rw [blockOf_getElem _ _ hj, List.getD_eq_getElem _ _ (by simpa using hj), List.getElem_replicate]
  rw [xorBlock_getElem _ _ _ hj, hz]
  exact BitVec.xor_zero

theorem deciphered_containerFor (b : Block) : deciphered (withInput (containerFor b) keyed) = b.toList := by
  have hx : (withInput (containerFor b) keyed).input = containerFor b := input_withInput _ _ (by simp [containerFor])
  have ht : (containerFor b).take 16 = List.replicate 16 0 := List.take_left' (by simp)
  have hd : (containerFor b).drop 16 = (Config.primitive.enc kt b).toList := List.drop_left' (by simp)
  rw [deciphered, hx, ht, hd, inv, runInv, runBlocks_short _ _ _ (by simp) (by simp)]
  show (xorBlock (Config.primitive.dec kt (blockOf (Config.primitive.enc kt b).toList)) (blockOf (List.replicate 16 0))).toList = _
  rw [blockOf_toList, Config.primitive.dec_enc, xorBlock_zero]

/-- The container of the full pad block, and that of the zero block. -/
theorem witness_DecryptCbcCompletes :
    (∀ b : Block, (withInput (containerFor b) keyed).keyLen = 32 ∧ (withInput (containerFor b) keyed).inLen = 32)
    ∧ unpad (deciphered (withInput (containerFor (Vector.replicate 16 0x10)) keyed)) = .ok []
    ∧ unpad (deciphered (withInput (containerFor (Vector.replicate 16 0)) keyed)) = .error .invalidPadding := by
  refine ⟨fun b => ⟨rfl, ?_⟩, ?_, ?_⟩
  · simp [withInput, containerFor]
  · rw [deciphered_containerFor]; exact unpad_full_block
  · rw [deciphered_containerFor]; exact unpad_zero_block

theorem witness_TransformCommandsComplete : ((.xformFwdCbc, .cbc) ∈ xformFwdForms ∧ (.xformInvCbc, .cbc) ∈ xformInvForms
      ∧ keyed.keyLen = 32 ∧ keyed.ivLen = 16)
    ∧ ∀ n ∈ [0, 16, Config.ibufSize], (keyedLen n).inLen.toNat ≤ Config.ibufSize ∧ (keyedLen n).inLen.toNat % 16 = 0 := by
  have := Config.ibufSize_ge
  have := Config.ibufSize_mod
  refine ⟨by decide, fun n h => ?_⟩
  simp only [List.mem_cons, List.not_mem_nil, or_false] at h
  rw [toNat_keyedLen] <;> omega

theorem witness_PaddingCommandsComplete : (keyedLen Config.ibufSize).inLen.toNat ≤ Config.ibufSize
    ∧ (unpad (withInput (List.replicate 16 0x10) keyed).input = .ok [] ∧ (withInput (List.replicate 16 0x10) keyed).inLen = 16)
    ∧ unpad State.reset.input = .error .invalidPadding := by
  refine ⟨by rw [toNat_keyedLen (by omega)], ⟨?_, rfl⟩, rfl⟩
  rw [input_withInput _ _ (by simp)]
  exact unpad_full_block

theorem witness_ContainerCommandsComplete : keyed.ivLen = 16
    ∧ ∀ n ∈ [16, Config.ibufSize], 16 ≤ (keyedLen n).inLen.toNat ∧ (keyedLen n).inLen.toNat ≤ Config.ibufSize := by
  have := Config.ibufSize_ge
  refine ⟨rfl, fun n h => ?_⟩
  simp only [List.mem_cons, List.not_mem_nil, or_false] at h
  rw [toNat_keyedLen] <;> omega

theorem witness_IllegalWordIsAcceptedAndFails : ∀ w ∈ ([0x000, 0x009, 0x092, 0x015, 0x101] : List Word), ¬ Legal w
    ∧ (idleWith [wr 0x00C w, .sequencer]).rstN = true ∧ (idleWith [wr 0x00C w, .sequencer]).status.busy = false
    ∧ (idleWith [wr 0x00C w, .sequencer]).events = [.hostWrite (wordAddr 0x00C) w, .sequencer] :=
  fun w h => ⟨by
    have hall : ([0x000, 0x009, 0x092, 0x015, 0x101] : List Word).all (fun w => !decide (Legal w)) = true := by decide
    have := List.all_eq_true.mp hall w h
    rw [Bool.not_eq_true', decide_eq_false_iff_not] at this
    exact this, rfl, rfl, rfl⟩

/-- Every check of R207 applies first to some word and register values, and none to PAD of nothing. -/
theorem witness_CheckOrder : CompletionNext (busyWith [.sequencer]) []
    ∧ precheck 0x92 32 16 32 = some 5 ∧ precheck 0x41 0 0 0 = some 1 ∧ precheck 0x02 0 0 3 = some 2
    ∧ precheck 0x07 0 15 2 = some 2 ∧ precheck 0x05 0 0 (Config.ibufSize + 1) = some 6
    ∧ precheck 0x02 32 0 15 = some 4 ∧ precheck 0x02 32 0 17 = some 3
    ∧ precheck (busyWith [.sequencer]).cmdLatch 0 0 0 = none := by
  refine ⟨⟨rfl, rfl, rfl⟩, by decide, by decide, by decide, by decide, ?_, by decide, by decide, by decide⟩
  unfold precheck
  dsimp only
  rw [if_neg (by decide), if_neg (by decide), if_neg (by decide), if_neg (by decide), if_pos (by omega)]

/-- UNPAD of nothing, just accepted. -/
def runningUnpad : State := { State.reset.accept 0x06 with events := [.sequencer] }

theorem witness_FailedCommandLeavesNoPartialResult : CompletionNext runningUnpad [] ∧ runningUnpad.status.outValid = false
    ∧ runningUnpad.outLen = 0 ∧ ∃ t, step runningUnpad = .next t ∧ t.status.outValid = false :=
  ⟨⟨rfl, rfl, rfl⟩, rfl, rfl, _, rfl, by decide⟩

/-- A command that succeeds from the state. -/
def succeedsFrom (s : State) (i : Instr) : Prop :=
  s.status.outValid = false ∧ ∃ t, exec i s = .next t ∧ t.status.outValid = true

theorem succeeds_of_finish {s : State} {i : Instr} {n : Needs} {o : Output} (h0 : s.status.outValid = false)
    (hi : exec i s = .next (s.finish n (.ok o))) (hn : s.precheck n = none) : succeedsFrom s i :=
  ⟨h0, _, hi, by rw [State.finish_ok hn]; rfl⟩

/-- A success of each of the seven shapes of R183. -/
theorem witness_OutputLengths : succeedsFrom keyed .encryptCbcRng ∧ succeedsFrom keyed .encryptCtrReg
    ∧ succeedsFrom keyed .encodeContainer ∧ succeedsFrom (withInput (containerFor (Vector.replicate 16 0x10)) keyed) .decryptCbc
    ∧ succeedsFrom (withInput vt.toList keyed) .decryptCtr ∧ succeedsFrom (withInput vt.toList keyed) .decodeContainer
    ∧ succeedsFrom keyed .xformFwdCbc ∧ succeedsFrom keyed .padData
    ∧ succeedsFrom (withInput (List.replicate 16 0x10) keyed) .unpadData := by
  refine ⟨succeeds_of_finish rfl rfl (by decide), succeeds_of_finish rfl rfl (by decide),
    succeeds_of_finish rfl rfl (by decide), ?_, ⟨rfl, _, rfl, by decide⟩, ⟨rfl, _, rfl, by decide⟩,
    succeeds_of_finish rfl rfl (by decide), ⟨rfl, _, rfl, by decide⟩, ⟨rfl, _, rfl, by decide⟩⟩
  have hl : (withInput (containerFor (Vector.replicate 16 0x10)) keyed).inLen = 32 := by simp [withInput, containerFor]
  have hx : (withInput (containerFor (Vector.replicate 16 0x10)) keyed).input = containerFor (Vector.replicate 16 0x10) :=
    input_withInput _ _ (by simp [containerFor])
  have hn : (withInput (containerFor (Vector.replicate 16 0x10)) keyed).precheck (decryptNeeds .cbc) = none := by
    have := Config.ibufSize_ge
    rw [State.precheck_eq_none, hl]
    exact ⟨fun _ => rfl, fun h => (by cases h), this, fun _ => by decide, fun _ => by decide⟩
  have hd : unpad (inv Config.primitive .cbc kt (blockOf ((containerFor (Vector.replicate 16 0x10)).take 16))
      ((containerFor (Vector.replicate 16 0x10)).drop 16)) = .ok [] := by
    have := witness_DecryptCbcCompletes.2.1
    rw [deciphered, hx] at this
    exact this
  have hs : splitContainer (containerFor (Vector.replicate 16 0x10))
      = .ok (blockOf ((containerFor (Vector.replicate 16 0x10)).take 16), (containerFor (Vector.replicate 16 0x10)).drop 16) := by
    rw [splitContainer, if_neg (by simp [containerFor])]
  have hr : ∃ o, decryptOutput Config.primitive .cbc kt (containerFor (Vector.replicate 16 0x10)) = .ok o := by
    rw [decryptOutput, hs]
    have hf : ∀ x, decryptFinish .cbc x = unpad x := fun _ => rfl
    dsimp only
    rw [hf, hd]
    exact ⟨_, rfl⟩
  obtain ⟨o, ho⟩ := hr
  refine succeeds_of_finish (n := decryptNeeds .cbc) (o := o) rfl ?_ hn
  show Host.Outcome.next (State.finish _ (decryptOutput _ _ kt (State.input _)) _) = _
  rw [hx, ho]

theorem witness_EncryptDecryptRoundTrip : ∃ s t u : State, (.encryptCtrReg, .ctr, .reg) ∈ encryptForms
    ∧ (.decryptCtr, .ctr) ∈ decryptForms ∧ s.status.outValid = false ∧ exec .encryptCtrReg s = .next t
    ∧ t.status.outValid = true ∧ u.key = t.key ∧ u.keyLen = t.keyLen ∧ u.inLen = t.outLen
    ∧ t.outLen.toNat ≤ Config.ibufSize ∧ (∀ n, n < t.outLen.toNat → u.ibufByte n = t.obufByte n)
    ∧ s.inLen.toNat + 32 ≤ Config.ibufSize := by
  have h0 := Config.ibufSize_ge
  have hn : keyed.precheck (encryptNeeds .reg) = none := by decide
  refine ⟨keyed, keyed.encrypt .ctr .reg, { keyed.encrypt .ctr .reg with
    ibuf := (keyed.encrypt .ctr .reg).obuf, inLen := (keyed.encrypt .ctr .reg).outLen }, by decide, by decide, rfl, rfl,
    ?_, rfl, rfl, rfl, ?_, ?_, h0⟩
  · rw [State.encrypt, State.finish_ok hn]; rfl
  · rw [State.encrypt, State.finish_ok hn]
    show (16 : Word).toNat ≤ _
    rw [show (16 : Word).toNat = 16 from rfl]
    omega
  · rw [State.encrypt, State.finish_ok hn]
    intro n h
    have h' : n < 16 := h
    have hb : ∃ b, (Memory.ofBytes 0 (encryptOutput Config.primitive .ctr .reg kt vt []).out).read? n = some b := by
      rw [Memory.read?_ofBytes]
      simp [show (encryptOutput Config.primitive .ctr .reg kt vt []).out = vt.toList from rfl, h']
    obtain ⟨b, hb⟩ := hb
    show ((Memory.ofBytes 0 (encryptOutput Config.primitive .ctr .reg kt vt []).out).read? n).getD _
      = ((Memory.ofBytes 0 (encryptOutput Config.primitive .ctr .reg kt vt []).out).read? n).getD _
    rw [hb]
    rfl

/-- PAD in two states that differ in key, IV and draws. -/
theorem witness_ResultDependsOnlyOnOperands : ∃ t t', exec .padData running = .next t
    ∧ exec .padData { running with key := kt, iv := vt, draws := { ibuf := 0, obuf := 0, read := 9, rng := 9 } } = .next t'
    ∧ readsKey .padData = false ∧ readsIv .padData = false ∧ readsDraw .padData = false
    ∧ ∀ n, n < running.inLen.toNat → State.ibufByte { running with key := kt, iv := vt } n = running.ibufByte n :=
  ⟨_, _, rfl, rfl, rfl, rfl, rfl, fun _ _ => rfl⟩

theorem witness_WorkingStateIsNeverRead : SameButWork running { running with work := Work.start vt } := rfl

theorem witness_KeyIsNotReadable : (∀ e ∈ [wr 0x040 1, rd 0x040, .resetPin false],
      SameButKey (idleWith [e]) { idleWith [e] with key := kt })
    ∧ (idleWith [wr 0x040 1]).events.head? = some (.hostWrite (wordAddr 0x040) 1)
    ∧ (idleWith [rd 0x040]).events.head? = some (.hostRead (wordAddr 0x040))
    ∧ (idleWith [.resetPin false]).events.head? = some (.resetPin false) := ⟨fun _ _ => rfl, rfl, rfl, rfl⟩

/-- The engine right after a soft reset, with a CMD write and the completion of that command to come. -/
def resetThen (w : Word) : State := { keyed.softReset with events := [wr 0x00C w, .sequencer] }

theorem witness_CommandsRightAfterReset : (∀ w : Word, InResetState (resetThen w) ∧ CommandNext (resetThen w) w [])
    ∧ WellFormed .decryptCbc ∧ readsKey .decryptCbc = true ∧ WellFormed .encodeContainer
    ∧ readsIv .encodeContainer = true ∧ 0x74 ∈ unsupportedWords ∧ ¬ Legal 0x09 := by
  refine ⟨fun w => ⟨⟨rfl, (by decide : keyed.softReset.status.toWord = 0), rfl, rfl, rfl, rfl, rfl, rfl, ?_, ?_,
    fun _ => rfl, rfl⟩, rfl, rfl⟩, rfl, rfl, rfl, rfl, by decide, by decide⟩
  · exact (by decide : ∀ j : Fin 32, keyed.softReset.key[j] = 0)
  · exact (by decide : ∀ j : Fin 16, keyed.softReset.iv[j] = 0)

theorem witness_DrawnIvIsNotKept : (.encryptCbcRng, .cbc) ∈ rngForms ∧ (.encryptCtrRng, .ctr) ∈ rngForms
    ∧ keyed.keyLen = 32 ∧ keyed.inLen.toNat ≤ Config.ibufSize := ⟨by decide, by decide, rfl, Nat.zero_le _⟩

end Sys2Proof.Tests
end

section
/-! What one host access does at a byte offset, in and out of BUSY: the rules of the host port in the terms of
`WriteNext` and `ReadNext`, and which offsets ignore every write. -/

namespace Sys2Proof.Proofs

open Sys2Proof.Machine Sys2Proof.Spec

/-! ### Reads and writes by their target -/

/-- No read looks at the inputs to come. -/
@[simp] theorem readTarget_events (t : Target) (s : State) (rest : List Event) :
    State.readTarget t { s with events := rest } = s.readTarget t := by
  cases t <;> rfl

/-- A read of a target that answers with a specified word (R61). -/
theorem step_of_readNext {s : State} {off : Nat} {rest : List Event} {t : Target} (h : ReadNext s off rest)
    (ht : decodeAddr (wordAddr off) = t) (hs : s.status.busy = false ∨ t.unspecifiedWhileBusy = false) :
    step s = .next { s with events := rest, rdata := s.readTarget t } := by
  subst ht
  rw [step_of_hostRead h.2 h.1, State.hostRead_specified (s := { s with events := rest }) hs, readTarget_events]

/-- A read of OBUF or of IV0 to IV3 while busy (R36, U3). -/
theorem step_of_readNext_unspecified {s : State} {off : Nat} {rest : List Event} (h : ReadNext s off rest)
    (hb : s.status.busy = true) (hu : (decodeAddr (wordAddr off)).unspecifiedWhileBusy = true) :
    step s = .next (State.readFree { s with events := rest }) := by
  rw [step_of_hostRead h.2 h.1, State.hostRead_unspecified (s := { s with events := rest }) hb hu]

/-- A write that the busy filter lets through. -/
theorem step_of_writeNext {s : State} {off : Nat} {w : Word} {rest : List Event} {t : Target}
    (h : WriteNext s off w rest) (ht : decodeAddr (wordAddr off) = t)
    (hf : s.status.busy = false ∨ t.busyFiltered = false) :
    step s = .next (State.writeTarget t w { s with events := rest }) := by
  subst ht
  rw [step_of_hostWrite h.2 h.1, State.hostWrite_of_not_filtered w { s with events := rest } hf]

/-- A write that the busy filter drops (R35). -/
theorem step_of_writeNext_filtered {s : State} {off : Nat} {w : Word} {rest : List Event} (h : WriteNext s off w rest)
    (hb : s.status.busy = true) (hf : (decodeAddr (wordAddr off)).busyFiltered = true) :
    step s = .next { s with events := rest, status := { s.status with ignored := true } } := by
  rw [step_of_hostWrite h.2 h.1, State.hostWrite_filtered w (s := { s with events := rest }) hb hf]
  rfl

/-! ### The targets whose writes change nothing -/

/-- Read-only registers, OBUF and the reserved and unbacked addresses (R20, R34, R65, R67). -/
def ignoresWrites : Target → Bool
  | .id | .status | .outLen | .ibufCap | .obufCap | .obuf _ | .unbacked => true
  | .ctrl | .cmd | .keyLen | .ivLen | .inLen | .irqEn | .key _ | .iv _ | .ibuf _ => false

theorem busyFiltered_of_ignoresWrites {t : Target} (h : ignoresWrites t = true) : t.busyFiltered = false := by
  cases t <;> simp_all [ignoresWrites, Target.busyFiltered]

theorem writeTarget_of_ignoresWrites {t : Target} (h : ignoresWrites t = true) (w : Word) (s : State) :
    s.writeTarget t w = s := by
  cases t <;> simp_all [ignoresWrites, State.writeTarget]

theorem step_of_writeNext_ignored {s : State} {off : Nat} {w : Word} {rest : List Event} (h : WriteNext s off w rest)
    (hi : ignoresWrites (decodeAddr (wordAddr off)) = true) : step s = .next { s with events := rest } := by
  rw [step_of_writeNext h rfl (.inr (busyFiltered_of_ignoresWrites hi)), writeTarget_of_ignoresWrites hi]

/-! ### The offsets of each kind -/

theorem registerMap_offset {off : Nat} {t : Target} (h : (off, t) ∈ registerMap) :
    off ≤ 0x028 ∨ (0x040 ≤ off ∧ off ≤ 0x06C) := by
  have rows : ∀ row ∈ registerMap, row.1 ≤ 0x028 ∨ (0x040 ≤ row.1 ∧ row.1 ≤ 0x06C) := by decide
  exact rows _ h

theorem decodeAddr_reserved {off : Nat} (h4 : off % 4 = 0) (h : Reserved off) :
    decodeAddr (wordAddr off) = .unbacked := by
  have hi := Config.ibufSize_le
  have ho := Config.obufSize_eq
  unfold Reserved at h
  have hoff := byteOffset_wordAddr off h4 (by omega)
  rcases decodeAddr_cases (wordAddr off) with hr | ⟨m, _, hm, hlt⟩ | ⟨m, _, hm, hlt⟩ | hu
  · have := registerMap_offset hr
    omega
  · omega
  · omega
  · exact hu

theorem exists_decodeAddr_ibuf {off : Nat} (h4 : off % 4 = 0) (h : 0x100000 ≤ off ∧ off < 0x100000 + Config.ibufSize) :
    ∃ m, decodeAddr (wordAddr off) = .ibuf m := by
  obtain ⟨m, rfl⟩ : ∃ m, off = 0x100000 + 4 * m := ⟨(off - 0x100000) / 4, by omega⟩
  exact ⟨m, decodeAddr_ibuf m (by omega)⟩

theorem exists_decodeAddr_obuf {off : Nat} (h4 : off % 4 = 0) (h : 0x200000 ≤ off ∧ off < 0x200000 + Config.obufSize) :
    ∃ m, decodeAddr (wordAddr off) = .obuf m := by
  obtain ⟨m, rfl⟩ : ∃ m, off = 0x200000 + 4 * m := ⟨(off - 0x200000) / 4, by omega⟩
  exact ⟨m, decodeAddr_obuf m (by omega)⟩

theorem busyFiltered_of_offset {off : Nat} (h4 : off % 4 = 0)
    (h : off ∈ filteredOffsets ∨ (0x100000 ≤ off ∧ off < 0x100000 + Config.ibufSize)) :
    (decodeAddr (wordAddr off)).busyFiltered = true := by
  rcases h with h | h
  · have rows : ∀ o ∈ filteredOffsets, (decodeAddr (wordAddr o)).busyFiltered = true := by decide
    exact rows off h
  · obtain ⟨m, hm⟩ := exists_decodeAddr_ibuf h4 h
    rw [hm]
    rfl

theorem ignoresWrites_of_offset {off : Nat} (h4 : off % 4 = 0)
    (h : off ∈ readOnlyOffsets ∨ (0x200000 ≤ off ∧ off < 0x200000 + Config.obufSize) ∨ Reserved off) :
    ignoresWrites (decodeAddr (wordAddr off)) = true := by
  rcases h with h | h | h
  · have rows : ∀ o ∈ readOnlyOffsets, ignoresWrites (decodeAddr (wordAddr o)) = true := by decide
    exact rows off h
  · obtain ⟨m, hm⟩ := exists_decodeAddr_obuf h4 h
    rw [hm]
    rfl
  · rw [decodeAddr_reserved h4 h]
    rfl

theorem unspecifiedWhileBusy_of_offset {off : Nat} (h4 : off % 4 = 0)
    (h : off ∈ [0x060, 0x064, 0x068, 0x06C] ∨ (0x200000 ≤ off ∧ off < 0x200000 + Config.obufSize)) :
    (decodeAddr (wordAddr off)).unspecifiedWhileBusy = true := by
  rcases h with h | h
  · have rows : ∀ o ∈ [0x060, 0x064, 0x068, 0x06C], (decodeAddr (wordAddr o)).unspecifiedWhileBusy = true := by decide
    exact rows off h
  · obtain ⟨m, hm⟩ := exists_decodeAddr_obuf h4 h
    rw [hm]
    rfl

/-- Each row of `ordinaryReads` is what the model's read of that offset answers, busy or not. -/
theorem ordinaryReads_spec {s : State} {off : Nat} {v : Word} (h : (off, v) ∈ ordinaryReads s) :
    (decodeAddr (wordAddr off)).unspecifiedWhileBusy = false ∧ s.readTarget (decodeAddr (wordAddr off)) = v := by
  have rows : ∀ row ∈ ordinaryReads s, (decodeAddr (wordAddr row.1)).unspecifiedWhileBusy = false
      ∧ s.readTarget (decodeAddr (wordAddr row.1)) = row.2 := by
    simp only [ordinaryReads, List.forall_mem_cons, List.not_mem_nil, false_implies, implies_true, and_true]
    and_intros <;> rfl
  exact rows _ h

/-- BUSY is bit 0 of the STATUS word (R23). -/
theorem toWord_getLsbD_zero (f : Status) : f.toWord.getLsbD 0 = f.busy := by
  cases hb : f.busy <;> simp [Status.toWord, bitWord, hb]

/-- A busy engine has no output, so OUT_LEN is 0 (R23, R28). -/
theorem outLen_of_busy {s : State} (hs : s.Inv) (hb : s.status.busy = true) : s.outLen = 0 := by
  obtain ⟨_, _, hv, _⟩ := hs.status.busy_clears hb
  exact hs.noOutput hv

/-! ### The obligations on the address map and the busy filter -/

/-- Settles O13: every reserved or unbacked offset reaches no target. -/
theorem reservedAddressesReadZero : Obligations.ReservedAddressesReadZero := by
  intro s off w rest h4 hres
  have hu := decodeAddr_reserved h4 hres
  exact ⟨fun h => step_of_readNext h hu (.inr rfl),
    fun h => step_of_writeNext_ignored h (ignoresWrites_of_offset h4 (.inr (.inr hres)))⟩

/-- Settles O14: the four kinds of target, each by its own rule of the host port. -/
theorem busyFilter : Obligations.BusyFilter := by
  intro s off w rest h4 h
  refine ⟨fun hb hoff => ?_, fun _ hoff => ?_, fun _ hoff => ?_, fun hoff => ?_⟩
  · exact step_of_writeNext_filtered h hb (busyFiltered_of_offset h4 hoff)
  · subst hoff
    exact step_of_writeNext h decodeAddr_irqEn (.inr rfl)
  · subst hoff
    exact step_of_writeNext h decodeAddr_ctrl (.inr rfl)
  · exact step_of_writeNext_ignored h (ignoresWrites_of_offset h4 hoff)

/-- Settles O15: a free word for OBUF and IV0 to IV3, and the specified word for every other register. -/
theorem readsWhileBusy : Obligations.ReadsWhileBusy := by
  intro s off rest hs h4 hb h
  refine ⟨fun hoff => ?_, fun hoff => ?_, fun hoff => ?_, fun v hv => ?_⟩
  · exact ⟨_, step_of_readNext_unspecified h hb (unspecifiedWhileBusy_of_offset h4 hoff), rfl, rfl, rfl⟩
  · subst hoff
    rw [step_of_readNext h decodeAddr_outLen (.inr rfl)]
    simp only [State.readTarget, outLen_of_busy hs hb]
  · subst hoff
    exact ⟨_, step_of_readNext h decodeAddr_status (.inr rfl), (toWord_getLsbD_zero s.status).trans hb, rfl⟩
  · obtain ⟨hu, hr⟩ := ordinaryReads_spec hv
    rw [step_of_readNext h rfl (.inr hu), hr]

/-- Settles O17: CTRL has no busy filter, and a write to it is one of the two cases of `State.writeCtrl_cases`. -/
theorem controlActions : Obligations.ControlActions := by
  refine ⟨fun s rest h => step_of_readNext h decodeAddr_ctrl (.inr rfl), fun s w rest h => ?_⟩
  have hstep : step s = .next (State.writeCtrl w { s with events := rest }) :=
    step_of_writeNext h decodeAddr_ctrl (.inr rfl)
  rw [hstep]
  rcases State.writeCtrl_cases w { s with events := rest } with ⟨hw, hc⟩ | ⟨hw, hc⟩
  · exact ⟨fun _ => congrArg _ hc, fun h0 => absurd (hw.symm.trans h0) (by decide)⟩
  · exact ⟨fun h1 => absurd (hw.symm.trans h1) (by decide), fun _ => congrArg _ hc⟩

/-- Settles O12: the three constants are below 2^32 and are read busy or not. -/
theorem constantRegistersRead : Obligations.ConstantRegistersRead := by
  have hi := Config.ibufSize_le
  refine ⟨fun s rest h => step_of_readNext h decodeAddr_id (.inr rfl), by decide,
    fun s rest h => ⟨_, step_of_readNext h decodeAddr_ibufCap (.inr rfl), ?_, rfl⟩,
    fun s rest h => ⟨_, step_of_readNext h decodeAddr_obufCap (.inr rfl), ?_, rfl⟩⟩
  · simp only [State.readTarget, BitVec.toNat_ofNat]
    omega
  · simp only [State.readTarget, BitVec.toNat_ofNat, Config.obufSize_eq]
    omega

/-- Settles O18: IRQ_EN has no busy filter and stores one bit. -/
theorem interruptEnableRegister : Obligations.InterruptEnableRegister :=
  ⟨fun _ _ _ h => step_of_writeNext h decodeAddr_irqEn (.inr rfl),
    fun _ _ h => step_of_readNext h decodeAddr_irqEn (.inr rfl), rfl⟩

end Sys2Proof.Proofs
end

section
/-! KEY and IVR over every step: which inputs can change them, and what the two register files store and read
(10_state.md R29, R30). -/

namespace Sys2Proof.Proofs

open Sys2Proof.Machine Sys2Proof.Spec

/-! ### IVR over a completion -/

theorem finish_iv {n : Needs} {r : Except ErrorKind Output} {s : State} (h : ∀ o, r = .ok o → o.ivOut = none) :
    (s.finish n r).iv = s.iv := by
  rcases State.finish_cases n r s with ⟨e, _, hf⟩ | ⟨e, _, _, hf⟩ | ⟨o, _, hr, hf⟩
  · rw [hf, State.fail_iv]
  · rw [hf, State.fail_iv]
  · rw [hf, State.succeed_iv, h o hr, Option.getD_none]

/-- A result mapped to a plain output writes no IV back. -/
theorem ivOut_of_map_plainOutput {r : Except ErrorKind Bytes} {o : Output} (h : r.map plainOutput = .ok o) :
    o.ivOut = none := by
  cases r with
  | error e => cases h
  | ok x => cases h; rfl

theorem ivOut_of_decryptOutput {p : BlockPrimitive} {m : Mode} {k : Key} {x : Bytes} {o : Output}
    (h : decryptOutput p m k x = .ok o) : o.ivOut = none := by
  unfold decryptOutput at h
  split at h
  · cases h
  · exact ivOut_of_map_plainOutput h

theorem encrypt_iv (m : Mode) (src : IvSrc) (s : State) : (s.encrypt m src).iv = s.iv :=
  finish_iv fun _ h => by cases h; rfl

theorem decrypt_iv (m : Mode) (s : State) : (s.decrypt m).iv = s.iv := finish_iv fun _ => ivOut_of_decryptOutput

theorem xformFwd_iv (m : Mode) (s : State) : (s.xformFwd m).iv = s.iv := finish_iv fun _ h => by cases h; rfl

theorem xformInv_iv (m : Mode) (s : State) : (s.xformInv m).iv = s.iv := finish_iv fun _ h => by cases h; rfl

/-- A finished command leaves IVR alone or has succeeded. -/
theorem finish_iv_or_valid (n : Needs) (r : Except ErrorKind Output) (s : State) :
    (s.finish n r).iv = s.iv ∨ (s.finish n r).status.outValid = true := by
  rcases State.finish_cases n r s with ⟨e, _, hf⟩ | ⟨e, _, _, hf⟩ | ⟨o, _, _, hf⟩
  · exact .inl (by rw [hf, State.fail_iv])
  · exact .inl (by rw [hf, State.fail_iv])
  · exact .inr (by rw [hf, State.succeed_status, Status.succeed_outValid])

/-- Only a DECODE that succeeds writes IVR (R174). -/
theorem exec_iv {i : Instr} {s t : State} (h : exec i s = .next t) :
    t.iv = s.iv ∨ (i = .decodeContainer ∧ t.status.outValid = true) := by
  cases i
  case encryptCbcRng | encryptCfbRng | encryptOfbRng | encryptCtrRng => cases h; exact .inl (encrypt_iv _ _ s)
  case encryptCbcReg | encryptCfbReg | encryptOfbReg | encryptCtrReg => cases h; exact .inl (encrypt_iv _ _ s)
  case decryptCbc | decryptCfb | decryptOfb | decryptCtr => cases h; exact .inl (decrypt_iv _ s)
  case xformFwdCbc | xformFwdCfb | xformFwdOfb | xformFwdCtr => cases h; exact .inl (xformFwd_iv _ s)
  case xformInvCbc | xformInvCfb | xformInvOfb | xformInvCtr => cases h; exact .inl (xformInv_iv _ s)
  case padData => cases h; exact .inl (finish_iv fun _ h => by cases h; rfl)
  case unpadData => cases h; exact .inl (finish_iv fun _ => ivOut_of_map_plainOutput)
  case encodeContainer => cases h; exact .inl (finish_iv fun _ h => by cases h; rfl)
  case decodeContainer => cases h; exact (finish_iv_or_valid _ _ s).imp_right fun hv => ⟨rfl, hv⟩
  case encryptNoMode | decryptNoMode | xformFwdNoMode | xformInvNoMode => cases h; exact .inl rfl

theorem runCommand_iv {s t : State} (h : s.runCommand = .next t) :
    t.iv = s.iv ∨ (decode s.cmdLatch = .ok .decodeContainer ∧ t.status.outValid = true) := by
  unfold State.runCommand State.fetchCommand at h
  split at h
  next i hd => exact (exec_iv h).imp_right fun ⟨hi, hv⟩ => ⟨hi ▸ hd, hv⟩
  next => cases h; exact .inl rfl

theorem runCommand_key {s t : State} (h : s.runCommand = .next t) : t.key = s.key := by
  obtain ⟨u, hu, hf⟩ := State.runCommand_cases s
  cases hu.symm.trans h
  rcases hf with ⟨e, rfl⟩ | ⟨o, rfl⟩ <;> rfl

/-! ### KEY and IVR over a host write -/

/-- A write to CTRL keeps KEY and IVR, or is a soft reset, which zeroes both (R22, R231). -/
theorem writeCtrl_key_iv (w : Word) (s : State) :
    ((s.writeCtrl w).key = s.key ∧ (s.writeCtrl w).iv = s.iv)
    ∨ (w.getLsbD 0 = true ∧ (s.writeCtrl w).key = Vector.replicate 32 0
        ∧ (s.writeCtrl w).iv = Vector.replicate 16 0) := by
  rcases State.writeCtrl_cases w s with ⟨hw, hc⟩ | ⟨_, hc⟩
  · exact .inr ⟨hw, by rw [hc, State.softReset_key], by rw [hc, State.softReset_iv]⟩
  · exact .inl (by rw [hc]; exact ⟨rfl, rfl⟩)

/-- Everything a host write can do to KEY and IVR. -/
theorem hostWrite_key_iv (a : WordAddr) (w : Word) (s : State) :
    ((s.hostWrite a w).key = s.key ∧ (s.hostWrite a w).iv = s.iv)
    ∨ (s.status.busy = false ∧ (∃ k, decodeAddr a = .key k) ∧ (s.hostWrite a w).iv = s.iv)
    ∨ (s.status.busy = false ∧ (∃ k, decodeAddr a = .iv k) ∧ (s.hostWrite a w).key = s.key)
    ∨ (decodeAddr a = .ctrl ∧ w.getLsbD 0 = true ∧ (s.hostWrite a w).key = Vector.replicate 32 0
        ∧ (s.hostWrite a w).iv = Vector.replicate 16 0) := by
  rcases State.hostWrite_cases a w s with ⟨_, _, h⟩ | ⟨hd, h⟩ | ⟨_, _, h⟩ | ⟨_, _, h⟩ | ⟨_, _, h⟩ | ⟨_, _, h⟩ | ⟨_, h⟩
    | ⟨hb, k, hd, h⟩ | ⟨hb, k, hd, h⟩ | ⟨_, _, _, h⟩ | h <;> rw [h]
  · exact .inl ⟨rfl, rfl⟩
  · exact (writeCtrl_key_iv w s).imp_right fun hc => .inr (.inr ⟨hd, hc⟩)
  · exact .inl ⟨rfl, rfl⟩
  · exact .inl ⟨rfl, rfl⟩
  · exact .inl ⟨rfl, rfl⟩
  · exact .inl ⟨rfl, rfl⟩
  · exact .inl ⟨rfl, rfl⟩
  · exact .inr (.inl ⟨hb, ⟨k, hd⟩, rfl⟩)
  · exact .inr (.inr (.inl ⟨hb, ⟨k, hd⟩, rfl⟩))
  · exact .inl ⟨rfl, rfl⟩
  · exact .inl ⟨rfl, rfl⟩

/-! ### KEY and IVR over a step -/

/-- Everything one step can do to KEY and IVR: keep both, complete a command, write through the port, or reset. -/
theorem step_key_iv {s t : State} (h : step s = .next t) :
    (t.key = s.key ∧ t.iv = s.iv)
    ∨ (s.status.busy = true ∧ ∃ rest, State.runCommand { s with events := rest } = .next t)
    ∨ (∃ a w rest, s.events.head? = some (.hostWrite a w) ∧ s.rstN = true
        ∧ t = State.hostWrite a w { s with events := rest })
    ∨ s.events.head? = some (.resetPin false)
    ∨ (s.events.head? = some (.resetPin true) ∧ t.key = Vector.replicate 32 0 ∧ t.iv = Vector.replicate 16 0) := by
  rcases step_cases h with ⟨_, rfl⟩ | ⟨_, _, hb, hc⟩ | ⟨a, w, rest, he, hr, ht⟩ | ⟨_, _, _, _, _, rfl⟩
    | ⟨a, rest, _, _, ht⟩ | ⟨_, _, _, _, rfl⟩ | ⟨_, _, _, rfl⟩ | ⟨rest, _, _, hb, hc⟩ | ⟨level, rest, he, ht⟩
  · exact .inl ⟨rfl, rfl⟩
  · exact .inr (.inl ⟨hb, s.events, hc⟩)
  · exact .inr (.inr (.inl ⟨a, w, rest, by rw [he]; rfl, hr, ht⟩))
  · exact .inl ⟨rfl, rfl⟩
  · subst ht
    rcases State.hostRead_cases a { s with events := rest } with ⟨_, _, hrd⟩ | ⟨_, hrd⟩ <;> rw [hrd] <;>
      exact .inl ⟨rfl, rfl⟩
  · exact .inl ⟨rfl, rfl⟩
  · exact .inl ⟨rfl, rfl⟩
  · exact .inr (.inl ⟨hb, rest, hc⟩)
  · subst ht
    rcases State.setResetPin_cases level { s with events := rest } with ⟨_, _, hp⟩ | hp <;> rw [hp]
    · exact .inl ⟨rfl, rfl⟩
    · cases level
      · exact .inr (.inr (.inr (.inl (by rw [he]; rfl))))
      · exact .inr (.inr (.inr (.inr ⟨by rw [he]; rfl, rfl, rfl⟩)))

/-- Only an idle write to KEYk, a soft reset or the reset pin changes KEY (R29). -/
theorem step_changes_key {s t : State} (h : step s = .next t) (hne : t.key ≠ s.key) :
    (∃ (a : WordAddr) (w : Word) (k : Nat), s.events.head? = some (.hostWrite a w) ∧ s.rstN = true
        ∧ s.status.busy = false ∧ k < 8 ∧ byteOffset a = 0x040 + 4 * k)
    ∨ s.events.head? = some (.resetPin false)
    ∨ (s.events.head? = some (.resetPin true)
        ∨ ∃ (a : WordAddr) (w : Word), s.events.head? = some (.hostWrite a w) ∧ byteOffset a = 0x004
          ∧ w.getLsbD 0 = true)
      ∧ t.key = Vector.replicate 32 0 := by
  rcases step_key_iv h with ⟨hk, _⟩ | ⟨_, rest, hc⟩ | ⟨a, w, rest, he, hr, rfl⟩ | hp | ⟨hp, hk, _⟩
  · exact absurd hk hne
  · exact absurd (runCommand_key hc) hne
  · rcases hostWrite_key_iv a w { s with events := rest } with ⟨hk, _⟩ | ⟨hb, ⟨k, hd⟩, _⟩ | ⟨_, _, hk⟩ | ⟨hd, hw, hk, _⟩
    · exact absurd hk hne
    · exact .inl ⟨a, w, k, he, hr, hb, byteOffset_of_key hd⟩
    · exact absurd hk hne
    · exact .inr (.inr ⟨.inr ⟨a, w, he, byteOffset_of_ctrl hd, hw⟩, hk⟩)
  · exact .inr (.inl hp)
  · exact .inr (.inr ⟨.inl hp, hk⟩)

/-- Only an idle write to IVk, a DECODE that succeeds, a soft reset or the reset pin changes IVR (R30). -/
theorem step_changes_iv {s t : State} (h : step s = .next t) (hne : t.iv ≠ s.iv) :
    (∃ (a : WordAddr) (w : Word) (k : Nat), s.events.head? = some (.hostWrite a w) ∧ s.rstN = true
        ∧ s.status.busy = false ∧ k < 4 ∧ byteOffset a = 0x060 + 4 * k)
    ∨ (decode s.cmdLatch = .ok .decodeContainer ∧ s.status.busy = true ∧ t.status.outValid = true)
    ∨ s.events.head? = some (.resetPin false)
    ∨ (s.events.head? = some (.resetPin true)
        ∨ ∃ (a : WordAddr) (w : Word), s.events.head? = some (.hostWrite a w) ∧ byteOffset a = 0x004
          ∧ w.getLsbD 0 = true)
      ∧ t.iv = Vector.replicate 16 0 := by
  rcases step_key_iv h with ⟨_, hv⟩ | ⟨hb, rest, hc⟩ | ⟨a, w, rest, he, hr, rfl⟩ | hp | ⟨hp, _, hv⟩
  · exact absurd hv hne
  · obtain ⟨hd, ho⟩ := (runCommand_iv hc).resolve_left hne
    exact .inr (.inl ⟨hd, hb, ho⟩)
  · rcases hostWrite_key_iv a w { s with events := rest } with ⟨_, hv⟩ | ⟨_, _, hv⟩ | ⟨hb, ⟨k, hd⟩, _⟩ | ⟨hd, hw, _, hv⟩
    · exact absurd hv hne
    · exact absurd hv hne
    · exact .inl ⟨a, w, k, he, hr, hb, byteOffset_of_iv hd⟩
    · exact .inr (.inr (.inr ⟨.inr ⟨a, w, he, byteOffset_of_ctrl hd, hw⟩, hv⟩))
  · exact .inr (.inr (.inl hp))
  · exact .inr (.inr (.inr ⟨.inl hp, hv⟩))

/-! ### Byte strings -/

theorem getElem_replicate_zero {n : Nat} {v : Vector Byte n} (h : v = Vector.replicate n 0) (j : Fin n) : v[j] = 0 := by
  subst h
  simp

/-- Byte 0 is the most significant byte of the counter (R30). -/
theorem be_block_div (v : Block) : be v.toList / 2 ^ 120 = v[0].toNat := by
  have hlt : be v.toList / 256 ^ 15 < 256 := Nat.div_lt_of_lt_mul (be_block_lt v)
  have hd := be_digit v.toList 0 (by simp)
  simp only [Vector.length_toList, Vector.getElem_toList] at hd
  exact (Nat.mod_eq_of_lt hlt).symm.trans hd

/-- Four bytes of a string, written out. -/
theorem take_four_drop (x : Bytes) (n : Nat) (h : n + 4 ≤ x.length) :
    (x.drop n).take 4 = [x.getD n 0, x.getD (n + 1) 0, x.getD (n + 2) 0, x.getD (n + 3) 0] := by
  rw [List.drop_eq_getElem_cons (i := n) (by omega), List.drop_eq_getElem_cons (i := n + 1) (by omega),
    List.drop_eq_getElem_cons (i := n + 2) (by omega), List.drop_eq_getElem_cons (i := n + 3) (by omega)]
  simp (disch := omega) only [List.take_succ_cons, List.take_zero, List.getD_eq_getElem]

/-- The word that a read of IVk answers has the four bytes of IVR from 4k on as its lanes. -/
theorem le32_readTarget_iv (s : State) {k : Nat} (hk : k < 4) :
    le32 (s.readTarget (.iv k)) = (s.iv.toList.drop (4 * k)).take 4 := by
  rw [State.readTarget, le32_laneWord, take_four_drop _ _ (by rw [Vector.length_toList]; omega), Nat.add_zero]

/-! ### The obligations -/

/-- Settles O20: `step_changes_key`, and the rules of the port at the offsets of KEY0 to KEY7. -/
theorem keyRegisters : Obligations.KeyRegisters := by
  refine ⟨fun s k w rest hk hb h => ?_, fun s k rest hk h => ?_, fun s t h hne => ?_⟩
  · exact ⟨_, step_of_writeNext h (decodeAddr_key k hk) (.inl hb), rfl,
      fun j => setLanes_getElem s.key k w j.val j.isLt⟩
  · exact step_of_readNext h (decodeAddr_key k hk) (.inr rfl)
  · exact (step_changes_key h hne).imp_right fun hr => hr.imp_right fun ⟨hin, hz⟩ =>
      ⟨hin, getElem_replicate_zero hz⟩

/-- Settles O21: `step_changes_iv`, the rules of the port at the offsets of IV0 to IV3, and the top digit of `be`. -/
theorem ivRegisters : Obligations.IvRegisters := by
  refine ⟨fun s k w rest hk hb h => ?_, fun s k rest hk hb h => ?_, fun s t h hne => ?_, be_block_div⟩
  · exact ⟨_, step_of_writeNext h (decodeAddr_iv k hk) (.inl hb), rfl,
      fun j => setLanes_getElem s.iv k w j.val j.isLt⟩
  · exact ⟨_, step_of_readNext h (decodeAddr_iv k hk) (.inl hb), rfl, le32_readTarget_iv s hk⟩
  · exact (step_changes_iv h hne).imp_right fun hr => hr.imp_right fun hr => hr.imp_right fun ⟨hin, hz⟩ =>
      ⟨hin, getElem_replicate_zero hz⟩

end Sys2Proof.Proofs
end

section
/-! ENCRYPT with a drawn IV: the length of the forward transform, the container it leaves in OBUF, and what of the
state depends on the draw (43_pipeline.md R180, R182, 10_state.md R43). -/

namespace Sys2Proof.Proofs

open Sys2Proof.Machine Sys2Proof.Spec

/-! ### The length of a container -/

/-- The forward transform keeps the length of admissible data (R144). -/
theorem length_fwd (p : BlockPrimitive) (m : Mode) (k : Key) (iv : Block) (x : Bytes) (hx : Admissible m x) :
    (fwd p m k iv x).length = x.length := by
  cases m with
  | cbc => exact length_runBlocks_aligned _ (fun w d _ => length_cbcFwdBlock p k w d) x (hx rfl) _
  | cfb => exact length_runBlocks _ (fun w d => length_cfbFwdBlock p k w d) x _
  | ofb => exact length_runBlocks _ (fun w d => length_ofbBlock p k w d) x _
  | ctr => exact length_runBlocks _ (fun w d => length_ctrBlock p k w d) x _

/-- Padded or not, ENCRYPT gives its transform admissible data (R114). -/
theorem admissible_encryptInput (m : Mode) (x : Bytes) : Admissible m (encryptInput m x) := by
  rintro rfl
  show (pad x).length % 16 = 0
  rw [length_pad]
  omega

theorem length_encryptInput_le (m : Mode) (x : Bytes) : (encryptInput m x).length ≤ x.length + 16 := by
  unfold encryptInput
  split
  · rw [length_pad]
    omega
  · omega

/-- The length of ENCRYPT's container depends on the mode and the data alone. -/
theorem length_encryptOutput (p : BlockPrimitive) (m : Mode) (src : IvSrc) (k : Key) (iv : Block) (x : Bytes) :
    (encryptOutput p m src k iv x).out.length = 16 + (encryptInput m x).length := by
  simp only [encryptOutput, containerOf, List.length_append, Vector.length_toList,
    length_fwd p m k iv _ (admissible_encryptInput m x)]

/-- A container starts with the IV (R170). -/
theorem getElem_encryptOutput (p : BlockPrimitive) (m : Mode) (src : IvSrc) (k : Key) (iv : Block) (x : Bytes) (n : Nat)
    (h : n < 16) (hn : n < (encryptOutput p m src k iv x).out.length) :
    (encryptOutput p m src k iv x).out[n] = iv[n] := by
  simp [encryptOutput, containerOf, List.getElem_append_left, h]

/-! ### The completion of ENCRYPT -/

/-- ENCRYPT with data that fits and its operands in place succeeds with its container (R180). -/
theorem encrypt_succeeded (m : Mode) (src : IvSrc) (s : State) (hk : s.keyLen = 32)
    (hv : isReg src = true → s.ivLen = 16) (hl : s.inLen.toNat ≤ Config.ibufSize) :
    Succeeded s (s.encrypt m src) (encryptOutput Config.primitive m src s.key (s.encryptIv src) s.input).out
      s.iv s.ivLen (if isReg src then 0 else 1) := by
  have hp : s.precheck (encryptNeeds src) = none :=
    (State.precheck_eq_none _ s).mpr ⟨fun _ => hk, hv, hl, (absurd · Bool.false_ne_true), (absurd · Bool.false_ne_true)⟩
  have hout : (encryptOutput Config.primitive m src s.key (s.encryptIv src) s.input).out.length ≤ Config.obufSize := by
    have hle := length_encryptInput_le m s.input
    have hz := Config.obufSize_eq
    rw [length_encryptOutput]
    rw [State.length_input] at hle
    omega
  rw [State.encrypt, State.finish_ok hp]
  cases src <;> exact State.succeeded_succeed _ s hout

/-! ### The number of draws taken before -/

/-- The state after another number of draws of the random source. -/
def withRng (r : Nat) (s : State) : State := { s with draws := { s.draws with rng := r } }

@[simp] theorem withRng_key (r : Nat) (s : State) : (withRng r s).key = s.key := rfl

@[simp] theorem withRng_input (r : Nat) (s : State) : (withRng r s).input = s.input := rfl

theorem withRng_fail (r : Nat) (e : ErrorKind) (s : State) : (withRng r s).fail e = withRng r (s.fail e) := rfl

/-- Two successes with outputs of one length, after different numbers of draws, differ in OBUF and that number alone. -/
theorem withRng_succeed {o o' : Output} (hlen : o'.out.length = o.out.length) (hiv : o'.ivOut = o.ivOut) (r : Nat)
    (s : State) :
    (withRng r s).succeed o' =
      withRng (if o'.drew then r + 1 else r) { s.succeed o with obuf := Memory.ofBytes 0 o'.out } := by
  simp only [State.succeed, withRng, hlen, hiv]

/-- The number of earlier draws shows, after an ENCRYPT, in OBUF and in that number alone. -/
theorem withRng_encrypt (r : Nat) (m : Mode) (src : IvSrc) (s : State) :
    ∃ mem d, (withRng r s).encrypt m src = withRng d { s.encrypt m src with obuf := mem } := by
  cases hp : s.precheck (encryptNeeds src) with
  | some e =>
    have hp' : (withRng r s).precheck (encryptNeeds src) = some e := hp
    refine ⟨[], r, ?_⟩
    rw [State.encrypt, State.encrypt, State.finish_of_precheck_error _ hp, State.finish_of_precheck_error _ hp',
      withRng_fail]
    rfl
  | none =>
    have hp' : (withRng r s).precheck (encryptNeeds src) = none := hp
    rw [State.encrypt, State.encrypt, State.finish_ok hp, State.finish_ok hp', withRng_key, withRng_input]
    have hlen : (encryptOutput Config.primitive m src s.key ((withRng r s).encryptIv src) s.input).out.length =
        (encryptOutput Config.primitive m src s.key (s.encryptIv src) s.input).out.length := by
      rw [length_encryptOutput, length_encryptOutput]
    exact ⟨_, _, withRng_succeed hlen rfl r s⟩

/-! ### The obligation -/

/-- The instructions of `rngForms` are ENCRYPT of their mode with a drawn IV. -/
theorem exec_rngForms {i : Instr} {m : Mode} (h : (i, m) ∈ rngForms) (s : State) :
    exec i s = .next (s.encrypt m .rng) := by
  simp only [rngForms, List.mem_cons, Prod.mk.injEq, List.not_mem_nil, or_false] at h
  rcases h with ⟨rfl, rfl⟩ | ⟨rfl, rfl⟩ | ⟨rfl, rfl⟩ | ⟨rfl, rfl⟩ <;> rfl

/-- Settles O60: the container starts with the draw, and `withRng_encrypt` says where else the draw shows. -/
theorem drawnIvIsNotKept : Obligations.DrawnIvIsNotKept := by
  intro i m s hi
  refine ⟨fun hk hl => ?_, fun r => ?_⟩
  · have hs := encrypt_succeeded m .rng s hk (absurd · Bool.false_ne_true) hl
    have hlen := length_encryptOutput Config.primitive m .rng s.key (s.encryptIv .rng) s.input
    refine ⟨_, exec_rngForms hi s, by rw [hs.outLen]; omega, fun n hn => ?_, hs.ivr, hs.ivlen, hs.rng⟩
    rw [hs.bytes n (by omega), getElem_encryptOutput _ _ _ _ _ _ n hn]
    rfl
  · obtain ⟨mem, d, hu⟩ := withRng_encrypt r m .rng s
    exact ⟨_, _, exec_rngForms hi s, (exec_rngForms hi (withRng r s)).trans (congrArg _ hu), rfl⟩

end Sys2Proof.Proofs
end

section
/-! The decoder against the spec's formula of legality and its table of 44 words (30_encoding.md R95 to R97). -/

namespace Sys2Proof.Proofs

open Sys2Proof.Machine Sys2Proof.Spec

/-! ### The decoder against the formula of R95 -/

theorem moded_ok_iff (w : Word) (i : Instr) : (∃ j, moded w i = .ok j) ↔ ivsrcField w = 0 := by
  unfold moded
  split <;> simp_all

theorem modeless_ok_iff (w : Word) (i : Instr) : (∃ j, modeless w i = .ok j) ↔ ivsrcField w = 0 ∧ modeField w = 0 := by
  unfold modeless
  split
  · split <;> simp_all
  · simp_all

/-- The formula of R95 in the decoder's own fields. -/
theorem legal_iff (w : Word) :
    Legal w ↔ reservedField w = 0 ∧ (opField w).toNat ∈ [1, 2, 3, 4, 5, 6, 7, 8]
      ∧ (ivsrcField w = 0 ∨ (opField w).toNat = 1) ∧ ((opField w).toNat ∈ [1, 2, 3, 4] ∨ modeField w = 0) := Iff.rfl

/-- The eight assigned values of OP (R91). -/
theorem mem_assigned_iff (op : BitVec 4) :
    op.toNat ∈ [1, 2, 3, 4, 5, 6, 7, 8] ↔ op = 1 ∨ op = 2 ∨ op = 3 ∨ op = 4 ∨ op = 5 ∨ op = 6 ∨ op = 7 ∨ op = 8 := by
  revert op
  decide

/-- A word whose OP is 0 or 9 to 15 is rejected (R91). -/
theorem decode_unassigned {w : Word} (hr : reservedField w = 0) (h : (opField w).toNat ∉ [1, 2, 3, 4, 5, 6, 7, 8]) :
    decode w = .error .opcode := by
  rw [mem_assigned_iff] at h
  push Not at h
  obtain ⟨h1, h2, h3, h4, h5, h6, h7, h8⟩ := h
  unfold decode
  rw [if_neg (not_not.mpr hr), if_neg h1, if_neg h2, if_neg h3, if_neg h4, if_neg h5, if_neg h6, if_neg h7, if_neg h8]

/-- The decoder accepts a word exactly where R95 calls it legal: reserved bits, then OP by OP. -/
theorem decode_ok_iff_legal (w : Word) : (∃ i, decode w = .ok i) ↔ Legal w := by
  rw [legal_iff]
  by_cases hr : reservedField w = 0
  case neg => exact iff_of_false (by simp [decode_reserved w hr]) fun hl => hr hl.1
  by_cases ho : (opField w).toNat ∈ [1, 2, 3, 4, 5, 6, 7, 8]
  case neg => exact iff_of_false (by simp [decode_unassigned hr ho]) fun hl => ho hl.2.1
  rcases (mem_assigned_iff _).mp ho with h | h | h | h | h | h | h | h
  · simp [decode, hr, h]
  iterate 3 · simp [decode, hr, h, moded_ok_iff]
  iterate 4 · simp [decode, hr, h, modeless_ok_iff]

/-! ### The formula against the table of R96 -/

/-- The bits above IVSRC are the reserved ones (R90). -/
theorem getLsbD_of_reserved {w : Word} (h : reservedField w = 0) {i : Nat} (h8 : 8 ≤ i) (hi : i < 32) :
    w.getLsbD i = false := by
  have hbit := congrArg (fun r => r.getLsbD (i - 8)) h
  simpa [reservedField, show i - 8 < 24 by omega, show 8 + (i - 8) = i by omega] using hbit

/-- A word with no reserved bit set is assembled from its three fields (R90). -/
theorem commandWord_fields {w : Word} (h : reservedField w = 0) :
    commandWord (opField w) (modeField w) (ivsrcField w) = w := by
  have hbit := fun i => getLsbD_of_reserved h (i := i)
  ext i hi
  simp only [commandWord, opField, modeField, ivsrcField, BitVec.getElem_or, BitVec.getElem_setWidth,
    BitVec.getLsbD_extractLsb', BitVec.getElem_shiftLeft]
  grind

/-- A fact about every word of a list, by a test that runs through the list. -/
theorem forall_mem_of_all {l : List Word} {p : Word → Prop} [DecidablePred p]
    (h : (l.all fun w => decide (p w)) = true) : ∀ w ∈ l, p w :=
  fun w hw => of_decide_eq_true (List.all_eq_true.mp h w hw)

/-- The legal words are those of the two lists. -/
theorem legal_iff_mem_table (w : Word) : Legal w ↔ w ∈ supportedWords ∨ w ∈ unsupportedWords := by
  have listed : ∀ op mode ivsrc, Legal (commandWord op mode ivsrc) →
      commandWord op mode ivsrc ∈ supportedWords ∨ commandWord op mode ivsrc ∈ unsupportedWords := by decide
  have supported : ∀ w ∈ supportedWords, Legal w := forall_mem_of_all (by decide)
  have unsupported : ∀ w ∈ unsupportedWords, Legal w := forall_mem_of_all (by decide)
  refine ⟨fun h => ?_, fun h => h.elim (supported w) (unsupported w)⟩
  obtain ⟨op, mode, ivsrc, rfl⟩ : ∃ op mode ivsrc, commandWord op mode ivsrc = w := ⟨_, _, _, commandWord_fields h.1⟩
  exact listed op mode ivsrc h

/-- Among the legal words the second list has those of OP 1 to 4 with MODE 4 to 7 (R92). -/
theorem mem_unsupportedWords_iff {w : Word} (h : Legal w) :
    w ∈ unsupportedWords ↔ (w.extractLsb' 0 4).toNat ∈ [1, 2, 3, 4] ∧ 4 ≤ (w.extractLsb' 4 3).toNat := by
  have supported : ∀ w ∈ supportedWords,
      ¬((w.extractLsb' 0 4).toNat ∈ [1, 2, 3, 4] ∧ 4 ≤ (w.extractLsb' 4 3).toNat) := forall_mem_of_all (by decide)
  have unsupported : ∀ w ∈ unsupportedWords,
      (w.extractLsb' 0 4).toNat ∈ [1, 2, 3, 4] ∧ 4 ≤ (w.extractLsb' 4 3).toNat := forall_mem_of_all (by decide)
  exact ⟨unsupported w, fun hm => ((legal_iff_mem_table w).mp h).resolve_left fun hs => supported w hs hm⟩

/-- No word stands twice in the table. -/
theorem table_nodup : (supportedWords ++ unsupportedWords).Nodup :=
  List.Nodup.of_map BitVec.toNat (by decide)

/-- Settles O3: the decoder's branches give R95's formula, and the formula gives the two lists word by word. -/
theorem decodeAcceptsExactlyLegalWords : Obligations.DecodeAcceptsExactlyLegalWords :=
  ⟨decode_ok_iff_legal, legal_iff_mem_table, rfl, rfl, table_nodup, fun _ => mem_unsupportedWords_iff⟩

end Sys2Proof.Proofs
end

section
/-! Acceptance (30_encoding.md R100): which step raises BUSY. -/

namespace Sys2Proof.Proofs

open Sys2Proof.Machine Sys2Proof.Spec

/-- A host read leaves STATUS alone (R61). -/
theorem hostRead_status (a : WordAddr) (s : State) : (s.hostRead a).status = s.status := by
  rcases State.hostRead_cases a s with ⟨_, _, h⟩ | ⟨_, h⟩ <;> rw [h]
  rfl

/-- A write to CTRL never raises BUSY (R22). -/
theorem writeCtrl_busy {w : Word} {s : State} (hb : s.status.busy = false) : (s.writeCtrl w).status.busy = false := by
  rcases State.writeCtrl_cases w s with ⟨_, h⟩ | ⟨_, h⟩ <;> rw [h]
  · rfl
  · exact hb

/-- The reset pin never raises BUSY (R230). -/
theorem setResetPin_busy {level : Bool} {s : State} (hb : s.status.busy = false) :
    (s.setResetPin level).status.busy = false := by
  rcases State.setResetPin_cases level s with ⟨_, _, h⟩ | h <;> rw [h]
  · exact hb
  · rfl

/-- An idle host write leaves the engine idle, or is a write to CMD. -/
theorem hostWrite_busy {a : WordAddr} {w : Word} {s : State} (hb : s.status.busy = false) :
    decodeAddr a = .cmd ∨ (s.hostWrite a w).status.busy = false := by
  rcases State.hostWrite_cases a w s with ⟨hb', _⟩ | ⟨_, h⟩ | ⟨_, hd, _⟩ | ⟨_, _, h⟩ | ⟨_, _, h⟩ | ⟨_, _, h⟩ | ⟨_, h⟩
    | ⟨_, _, _, h⟩ | ⟨_, _, _, h⟩ | ⟨_, _, _, h⟩ | h
  · exact absurd (hb.symm.trans hb') Bool.false_ne_true
  · exact .inr (by rw [h]; exact writeCtrl_busy hb)
  · exact .inl hd
  all_goals exact .inr (by rw [h]; exact hb)

/-- Everything a step of an idle engine can do to BUSY: leave it 0, or write to CMD. -/
theorem step_busy {s t : State} (h : step s = .next t) (hb : s.status.busy = false) :
    t.status.busy = false
    ∨ ∃ (a : WordAddr) (w : Word), s.events.head? = some (.hostWrite a w) ∧ decodeAddr a = .cmd ∧ s.rstN = true := by
  rcases step_cases h with ⟨_, rfl⟩ | ⟨_, _, hb', _⟩ | ⟨a, w, rest, he, hr, rfl⟩ | ⟨_, _, _, _, _, rfl⟩
    | ⟨a, rest, _, _, rfl⟩ | ⟨_, _, _, _, rfl⟩ | ⟨_, _, _, rfl⟩ | ⟨_, _, _, hb', _⟩ | ⟨level, rest, _, rfl⟩
  · exact .inl hb
  · exact absurd (hb.symm.trans hb') Bool.false_ne_true
  · rcases hostWrite_busy (a := a) (w := w) (s := { s with events := rest }) hb with hd | hi
    · exact .inr ⟨a, w, by rw [he]; rfl, hd, hr⟩
    · exact .inl hi
  · exact .inl hb
  · exact .inl (by rw [hostRead_status]; exact hb)
  · exact .inl hb
  · exact .inl hb
  · exact absurd (hb.symm.trans hb') Bool.false_ne_true
  · exact .inl (setResetPin_busy hb)

/-- Settles O25: the rules of the port at CMD, and `step_busy` for every other step. -/
theorem acceptanceOfACommand : Obligations.AcceptanceOfACommand := by
  refine ⟨fun s w rest h hb => ?_, fun s w rest h hb => ?_, fun s t h hb ht => ?_⟩
  · exact ⟨_, step_of_writeNext h decodeAddr_cmd (.inl hb), rfl, rfl, rfl, rfl⟩
  · exact step_of_writeNext_filtered h hb (by rw [decodeAddr_cmd]; rfl)
  · rcases step_busy h hb with hi | ⟨a, w, he, hd, hr⟩
    · exact absurd (hi.symm.trans ht) Bool.false_ne_true
    · exact ⟨a, w, he, byteOffset_of_cmd hd, hr⟩

end Sys2Proof.Proofs
end

section
/-! The operands of a command (30_encoding.md R99): what of the state its checks and its result depend on. -/

namespace Sys2Proof.Proofs

open Sys2Proof.Machine Sys2Proof.Spec

/-- Two states that agree on L and X, which every command reads, and on STATUS and OUT_LEN, of which a completion keeps
a part (R101). -/
structure SameInput (s s' : State) : Prop where
  inLen : s'.inLen = s.inLen
  input : s'.input = s.input
  status : s'.status = s.status
  outLen : s'.outLen = s.outLen

/-- Two states that show the same result of a command: STATUS, the output length and the output. -/
structure SameResult (t t' : State) : Prop where
  status : t'.status = t.status
  outLen : t'.outLen = t.outLen
  obuf : t'.obuf = t.obuf

section
variable {s s' : State}

theorem fail_sameResult (h : SameInput s s') (e : ErrorKind) : SameResult (s.fail e) (s'.fail e) where
  status := by rw [State.fail_status, State.fail_status, h.status]
  outLen := h.outLen
  obuf := rfl

theorem succeed_sameResult (h : SameInput s s') (o : Output) : SameResult (s.succeed o) (s'.succeed o) where
  status := by rw [State.succeed_status, State.succeed_status, h.status]
  outLen := rfl
  obuf := rfl

/-- The checks depend on IN_LEN, and on KEYLEN and IVLEN where the command needs the key and the IV (R207). -/
theorem precheck_congr {n : Needs} (h : SameInput s s') (hk : n.key = true → s'.keyLen = s.keyLen)
    (hv : n.iv = true → s'.ivLen = s.ivLen) : s'.precheck n = s.precheck n := by
  have hkey : (n.key = true ∧ s'.keyLen ≠ 32) ↔ (n.key = true ∧ s.keyLen ≠ 32) :=
    and_congr_right fun hn => by rw [hk hn]
  have hiv : (n.iv = true ∧ s'.ivLen ≠ 16) ↔ (n.iv = true ∧ s.ivLen ≠ 16) :=
    and_congr_right fun hn => by rw [hv hn]
  unfold State.precheck State.inputLen
  rw [h.inLen, if_congr hkey rfl (if_congr hiv rfl rfl)]

/-- A command depends on what its checks read and on its operation's result. -/
theorem finish_sameResult {n : Needs} {r r' : Except ErrorKind Output} (h : SameInput s s')
    (hk : n.key = true → s'.keyLen = s.keyLen) (hv : n.iv = true → s'.ivLen = s.ivLen) (hr : r' = r) :
    SameResult (s.finish n r) (s'.finish n r') := by
  subst hr
  have hp := precheck_congr h hk hv
  rcases State.finish_cases n r' s with ⟨e, hs, hf⟩ | ⟨e, hs, rfl, hf⟩ | ⟨o, hs, rfl, hf⟩ <;> rw [hf]
  · rw [State.finish_of_precheck_error r' (hp.trans hs)]
    exact fail_sameResult h e
  · rw [State.finish_error (hp.trans hs)]
    exact fail_sameResult h e
  · rw [State.finish_ok (hp.trans hs)]
    exact succeed_sameResult h o

/-! ### Each operation by its row of the table -/

/-- ENCRYPT reads K, KL, X, and V and VL or the draw by its IV source (R180, R182). -/
theorem encrypt_sameResult (m : Mode) {src : IvSrc} (h : SameInput s s') (hk : s'.key = s.key ∧ s'.keyLen = s.keyLen)
    (hv : src = .reg → s'.iv = s.iv ∧ s'.ivLen = s.ivLen) (hd : src = .rng → s'.draws.rng = s.draws.rng) :
    SameResult (s.encrypt m src) (s'.encrypt m src) := by
  obtain ⟨hkey, hlen⟩ := hk
  cases src with
  | rng =>
    have hiv : s'.encryptIv .rng = s.encryptIv .rng := congrArg Config.rngDraw (hd rfl)
    exact finish_sameResult h (fun _ => hlen) (absurd · Bool.false_ne_true) (by rw [hkey, hiv, h.input])
  | reg =>
    have hiv : s'.encryptIv .reg = s.encryptIv .reg := (hv rfl).1
    exact finish_sameResult h (fun _ => hlen) (fun _ => (hv rfl).2) (by rw [hkey, hiv, h.input])

/-- DECRYPT reads K, KL and X (R181). -/
theorem decrypt_sameResult (m : Mode) (h : SameInput s s') (hk : s'.key = s.key ∧ s'.keyLen = s.keyLen) :
    SameResult (s.decrypt m) (s'.decrypt m) :=
  finish_sameResult h (fun _ => hk.2) (absurd · Bool.false_ne_true) (by rw [hk.1, h.input])

/-- XFORM_FWD reads K, KL, V, VL and X (R147). -/
theorem xformFwd_sameResult (m : Mode) (h : SameInput s s') (hk : s'.key = s.key ∧ s'.keyLen = s.keyLen)
    (hv : s'.iv = s.iv ∧ s'.ivLen = s.ivLen) : SameResult (s.xformFwd m) (s'.xformFwd m) :=
  finish_sameResult h (fun _ => hk.2) (fun _ => hv.2) (by rw [hk.1, hv.1, h.input])

/-- XFORM_INV reads K, KL, V, VL and X (R148). -/
theorem xformInv_sameResult (m : Mode) (h : SameInput s s') (hk : s'.key = s.key ∧ s'.keyLen = s.keyLen)
    (hv : s'.iv = s.iv ∧ s'.ivLen = s.ivLen) : SameResult (s.xformInv m) (s'.xformInv m) :=
  finish_sameResult h (fun _ => hk.2) (fun _ => hv.2) (by rw [hk.1, hv.1, h.input])

/-- The result of a command depends on the operands of its row of R99 alone. -/
theorem exec_sameResult {i : Instr} {t t' : State} (ht : exec i s = .next t) (ht' : exec i s' = .next t')
    (h : SameInput s s') (hk : readsKey i = true → s'.key = s.key ∧ s'.keyLen = s.keyLen)
    (hv : readsIv i = true → s'.iv = s.iv ∧ s'.ivLen = s.ivLen)
    (hd : readsDraw i = true → s'.draws.rng = s.draws.rng) : SameResult t t' := by
  cases i <;> cases ht <;> cases ht'
  case encryptCbcRng | encryptCfbRng | encryptOfbRng | encryptCtrRng =>
    exact encrypt_sameResult _ h (hk rfl) nofun fun _ => hd rfl
  case encryptCbcReg | encryptCfbReg | encryptOfbReg | encryptCtrReg =>
    exact encrypt_sameResult _ h (hk rfl) (fun _ => hv rfl) nofun
  case decryptCbc | decryptCfb | decryptOfb | decryptCtr => exact decrypt_sameResult _ h (hk rfl)
  case xformFwdCbc | xformFwdCfb | xformFwdOfb | xformFwdCtr => exact xformFwd_sameResult _ h (hk rfl) (hv rfl)
  case xformInvCbc | xformInvCfb | xformInvOfb | xformInvCtr => exact xformInv_sameResult _ h (hk rfl) (hv rfl)
  case padData => exact finish_sameResult h nofun nofun (by rw [h.input])
  case unpadData => exact finish_sameResult h nofun nofun (by rw [h.input])
  case encodeContainer => exact finish_sameResult h nofun (fun _ => (hv rfl).2) (by rw [(hv rfl).1, h.input])
  case decodeContainer => exact finish_sameResult h nofun nofun (by rw [h.input])
  case encryptNoMode | decryptNoMode | xformFwdNoMode | xformInvNoMode => exact fail_sameResult h _

/-! ### The write-back of DECODE -/

/-- A DECODE that succeeds has split its input, and IVR and IVLEN are those of the container (R174). -/
theorem decode_ivr_of_valid {t : State} (ht : exec .decodeContainer s = .next t) (hv : t.status.outValid = true)
    (h0 : s.status.outValid = false) : ∃ c, splitContainer s.input = .ok c ∧ t.iv = c.1 ∧ t.ivLen = 16 := by
  cases ht
  rcases State.finish_cases decodeNeeds ((splitContainer s.input).map fun c =>
      { out := c.2, ivOut := some c.1, drew := false }) s with ⟨e, _, hf⟩ | ⟨e, _, _, hf⟩ | ⟨o, _, hr, hf⟩ <;>
    rw [hf] at hv ⊢
  · exact absurd (h0.symm.trans hv) Bool.false_ne_true
  · exact absurd (h0.symm.trans hv) Bool.false_ne_true
  · cases hc : splitContainer s.input with
    | error e => rw [hc] at hr; cases hr
    | ok c => rw [hc] at hr; cases hr; exact ⟨c, rfl, rfl, rfl⟩

end

/-- Settles O56: `exec_sameResult`, and for DECODE's write-back the container that both inputs split into. -/
theorem resultDependsOnlyOnOperands : Obligations.ResultDependsOnlyOnOperands := by
  intro i s s' t t' ht ht' hlen hbytes hk hv hd hst hol
  have hin : SameInput s s' := ⟨hlen, State.input_congr hlen hbytes, hst, hol⟩
  have hres := exec_sameResult ht ht' hin hk hv hd
  refine ⟨hres.status, hres.outLen, hres.obuf, ?_⟩
  rintro rfl hvalid h0
  obtain ⟨c, hc, hiv, hvl⟩ := decode_ivr_of_valid ht hvalid h0
  obtain ⟨c', hc', hiv', hvl'⟩ := decode_ivr_of_valid ht' (by rw [hres.status]; exact hvalid) (by rw [hst]; exact h0)
  cases hc.symm.trans (hin.input ▸ hc')
  exact ⟨hiv'.trans hiv.symm, hvl'.trans hvl.symm⟩

end Sys2Proof.Proofs
end

section
/-! What `unpad` accepts (R112), and how it and `pad` invert each other (R113). -/

namespace Sys2Proof.Proofs

open Sys2Proof.Machine Sys2Proof.Spec

/-! ### Padding as an append -/

/-- The only count from 1 to 16 that fills up a whole block is the pad count (R110). -/
theorem padCount_unique {len n : Nat} (h1 : 1 ≤ n) (h16 : n ≤ 16) (hlen : (len + n) % 16 = 0) : padCount len = n := by
  unfold padCount
  omega

theorem length_add_padCount_mod (len : Nat) : (len + padCount len) % 16 = 0 := by
  unfold padCount
  omega

theorem pad_of_aligned {z : Bytes} {n : Nat} (h1 : 1 ≤ n) (h16 : n ≤ 16) (hlen : (z.length + n) % 16 = 0) :
    pad z = z ++ List.replicate n (BitVec.ofNat 8 n) := by
  unfold pad
  rw [padCount_unique h1 h16 hlen]

/-! ### What `unpad` accepts -/

theorem toNat_ofNat_padByte {n : Nat} (h16 : n ≤ 16) : (BitVec.ofNat 8 n).toNat = n := by
  rw [BitVec.toNat_ofNat]
  omega

/-- The last of `n ≥ 1` equal bytes, which `unpad` reads as the count. -/
theorem getLastD_append_replicate (z : Bytes) {n : Nat} (h1 : 1 ≤ n) (b d : Byte) :
    (z ++ List.replicate n b).getLastD d = b := by
  obtain ⟨m, rfl⟩ : ∃ m, n = m + 1 := ⟨n - 1, by omega⟩
  rw [List.replicate_succ', ← List.append_assoc, List.getLastD_concat]

/-- A string of whole blocks that ends in `n` bytes of value `n` passes checks (a) to (d) of R112. -/
theorem unpad_append_replicate {z : Bytes} {n : Nat} (h1 : 1 ≤ n) (h16 : n ≤ 16) (hlen : (z.length + n) % 16 = 0) :
    unpad (z ++ List.replicate n (BitVec.ofNat 8 n)) = .ok z := by
  have hl : (z ++ List.replicate n (BitVec.ofNat 8 n)).length = z.length + n := by simp
  have hany : (List.replicate n (BitVec.ofNat 8 n)).any (fun b => b != BitVec.ofNat 8 n) = false := by simp
  unfold unpad
  simp only [hl, getLastD_append_replicate z h1, toNat_ofNat_padByte h16, Nat.add_sub_cancel, List.drop_left,
    List.take_left, hany]
  rw [if_neg (by omega), if_neg (by omega), if_neg (by omega), if_neg Bool.false_ne_true]

/-- `unpad` accepts only strings of whole blocks that end in `n` bytes of value `n`, and drops those bytes (R112). -/
theorem padded_of_unpad_ok {y z : Bytes} (h : unpad y = .ok z) :
    y.length % 16 = 0 ∧ ∃ n, 1 ≤ n ∧ n ≤ 16 ∧ y = z ++ List.replicate n (BitVec.ofNat 8 n) := by
  unfold unpad at h
  split at h
  · cases h
  split at h
  · cases h
  next halign hne =>
  dsimp only at h
  split at h
  · cases h
  split at h
  · cases h
  next hrange hany =>
  cases h
  refine ⟨by omega, (y.getLastD 0).toNat, by omega, by omega, ?_⟩
  have hdrop : y.drop (y.length - (y.getLastD 0).toNat) = List.replicate (y.getLastD 0).toNat (y.getLastD 0) := by
    rw [List.eq_replicate_iff, List.length_drop]
    refine ⟨by omega, ?_⟩
    simpa using hany
  rw [BitVec.ofNat_toNat, BitVec.setWidth_eq, ← hdrop, List.take_append_drop]

/-- `unpad` accepts exactly the strings of whole blocks that end in `n` bytes of value `n`, 1 ≤ n ≤ 16 (R112). -/
theorem unpad_eq_ok_iff {y z : Bytes} : unpad y = .ok z ↔
    y.length % 16 = 0 ∧ ∃ n, 1 ≤ n ∧ n ≤ 16 ∧ y = z ++ List.replicate n (BitVec.ofNat 8 n) := by
  refine ⟨padded_of_unpad_ok, ?_⟩
  rintro ⟨hlen, n, h1, h16, rfl⟩
  rw [List.length_append, List.length_replicate] at hlen
  exact unpad_append_replicate h1 h16 hlen

/-! ### The inverse laws -/

theorem unpad_pad (x : Bytes) : unpad (pad x) = .ok x :=
  unpad_append_replicate (padCount_pos _) (padCount_le _) (length_add_padCount_mod _)

theorem pad_of_unpad_ok {y z : Bytes} (h : unpad y = .ok z) : pad z = y := by
  obtain ⟨hlen, n, h1, h16, rfl⟩ := unpad_eq_ok_iff.mp h
  rw [List.length_append, List.length_replicate] at hlen
  exact pad_of_aligned h1 h16 hlen

/-- Settles O32: what `pad` appends is what `unpad` accepts and drops, and only one count fills up a whole block. -/
theorem unpadInvertsPad : Obligations.UnpadInvertsPad :=
  ⟨unpad_pad, fun _ _ => pad_of_unpad_ok⟩

end Sys2Proof.Proofs
end

section
/-! The Mode Engine's runner, block by block: the working state before each block, the output block it gives, and a
block step that undoes another (41_modes.md R130, R143, R145). -/

namespace Sys2Proof.Proofs

open Sys2Proof.Machine Sys2Proof.Spec

/-! ### The working state before a block -/

/-- The working state that a run of `f` from `w` over the blocks of `x` has before block `i`. -/
def workBefore (f : Work → Bytes → Bytes × Work) (w : Work) (x : Bytes) : Nat → Work
  | 0 => w
  | i + 1 => (f (workBefore f w x i) (blk x i)).2

variable {f g : Work → Bytes → Bytes × Work}

theorem workBefore_append_succ (w : Work) (c x : Bytes) (hc : c.length = 16) (i : Nat) :
    workBefore f w (c ++ x) (i + 1) = workBefore f (f w c).2 x i := by
  induction i with
  | zero => rw [workBefore, workBefore, workBefore, blk_append_zero c x hc]
  | succ i ih => rw [workBefore, ih, blk_append_succ c x i hc, workBefore]

/-- A string of one block or none is its own block 0. -/
theorem blk_zero_of_length_le {x : Bytes} (h : x.length ≤ 16) : blk x 0 = x := List.take_of_length_le h

/-- Block `i` of the output is what `f` makes of block `i` of the data in the working state before it. -/
theorem blk_runBlocks (hf : ∀ w d, d.length ≤ 16 → d.length ≤ (f w d).1.length ∧ (f w d).1.length ≤ 16) (w : Work)
    (x : Bytes) {i : Nat} (hi : i < blockCount x) :
    blk (runBlocks f w (blocks x)).1 i = (f (workBefore f w x i) (blk x i)).1 := by
  induction x using blocks_induction generalizing w i with
  | nil => exact absurd hi (Nat.not_lt_zero i)
  | short x h0 h =>
    obtain rfl : i = 0 := by unfold blockCount at hi; omega
    rw [runBlocks_short f w x h0 h.le, blk_zero_of_length_le (hf w x h.le).2, blk_zero_of_length_le h.le, workBefore]
  | cons c x hc ih =>
    have hout : (f w c).1.length = 16 := by have := hf w c hc.le; omega
    rw [runBlocks_append f w c x hc]
    cases i with
    | zero => rw [blk_append_zero _ _ hout, blk_append_zero c x hc, workBefore]
    | succ i =>
      rw [blockCount_append c x hc] at hi
      rw [blk_append_succ _ _ i hout, blk_append_succ c x i hc, workBefore_append_succ w c x hc,
        ih _ (Nat.lt_of_succ_lt_succ hi)]

/-- The same of a block step that keeps the length, as those of the stream modes do. -/
theorem blk_runBlocks_of_length_eq (hf : ∀ w d, d.length ≤ 16 → (f w d).1.length = d.length) (w : Work) (x : Bytes)
    {i : Nat} (hi : i < blockCount x) :
    blk (runBlocks f w (blocks x)).1 i = (f (workBefore f w x i) (blk x i)).1 :=
  blk_runBlocks (fun w d h => ⟨(hf w d h).ge, (hf w d h).le.trans h⟩) w x hi

/-! ### A block step that undoes another -/

/-- On blocks of `n` bytes `f` keeps the length, and `g` gives the block back and leaves the working state that `f`
left. -/
def UndoesBlock (f g : Work → Bytes → Bytes × Work) (n : Nat) : Prop :=
  ∀ w d, d.length = n → (f w d).1.length = n ∧ g w (f w d).1 = (d, (f w d).2)

/-- A run of `g` undoes a run of `f` if `g` undoes `f` on whole blocks and on the short rest that there is. -/
theorem runBlocks_runBlocks_of_undoesBlock (h16 : UndoesBlock f g 16) (w : Work) (x : Bytes)
    (hrest : 0 < x.length % 16 → UndoesBlock f g (x.length % 16)) :
    (runBlocks g w (blocks (runBlocks f w (blocks x)).1)).1 = x := by
  induction x using blocks_induction generalizing w with
  | nil => simp only [blocks_nil, runBlocks_nil]
  | short x h0 h =>
    rw [Nat.mod_eq_of_lt h] at hrest
    obtain ⟨hlen, hundo⟩ := hrest h0 w x rfl
    rw [runBlocks_short f w x h0 h.le, runBlocks_short g w _ (by omega) (by omega), hundo]
  | cons c x hc ih =>
    obtain ⟨hlen, hundo⟩ := h16 w c hc
    rw [List.length_append, hc, Nat.add_mod_left] at hrest
    rw [runBlocks_append f w c x hc, runBlocks_append g w _ _ hlen, hundo, ih _ hrest]

end Sys2Proof.Proofs
end

section
/-! The modes as functions: length and inverse for all four (41_modes.md R144, R145), the OFB keystream (R138, R139),
and the CTR counter and keystream (R140 to R142). -/

namespace Sys2Proof.Proofs

open Sys2Proof.Machine Sys2Proof.Spec

/-! ### The inverse law -/

/-- A step that XORs with the same keystream block both ways, and leaves the same working state, undoes itself. -/
theorem xorTruncated_undo {d : Bytes} (s : Block) (w : Work) (h : d.length ≤ 16) :
    (xorTruncated (xorTruncated d s) s, w) = (d, w) := by
  rw [xorTruncated_cancel d s h]

/-- The inverse block step undoes the forward one: CBC's on whole blocks by the law of R7, the others by XOR. -/
theorem undoesBlock_mode (p : BlockPrimitive) (k : Key) (m : Mode) {n : Nat} (hn : n ≤ 16) (hcbc : m = .cbc → n = 16) :
    UndoesBlock (fwdBlock p k m) (invBlock p k m) n := by
  rintro w d rfl
  cases m with
  | cbc =>
    refine ⟨(length_cbcFwdBlock p k w d).trans (hcbc rfl).symm, ?_⟩
    simp only [fwdBlock, invBlock, cbcFwdBlock, cbcInvBlock, blockOf_toList, p.dec_enc, xorBlock_cancel,
      toList_blockOf d (hcbc rfl)]
  | cfb => exact ⟨length_cfbFwdBlock p k w d hn, xorTruncated_undo _ _ hn⟩
  | ofb => exact ⟨length_ofbBlock p k w d hn, xorTruncated_undo _ _ hn⟩
  | ctr => exact ⟨length_ctrBlock p k w d hn, xorTruncated_undo _ _ hn⟩

/-- Settles O43: run over the data, `undoesBlock_mode`; admissible data of CBC has no short rest. -/
theorem inverseUndoesForward : Obligations.InverseUndoesForward := by
  intro p m k v x hx
  refine runBlocks_runBlocks_of_undoesBlock (undoesBlock_mode p k m (Nat.le_refl 16) fun _ => rfl) _ x fun hrest => ?_
  exact undoesBlock_mode p k m (by omega) fun hm => absurd (hx hm) hrest.ne'

/-! ### Lengths -/

/-- The inverse transform keeps the length of admissible data (R144). -/
theorem length_inv (p : BlockPrimitive) (m : Mode) (k : Key) (iv : Block) (x : Bytes) (hx : Admissible m x) :
    (inv p m k iv x).length = x.length := by
  cases m with
  | cbc => exact length_runBlocks_aligned _ (fun w d _ => length_cbcInvBlock p k w d) x (hx rfl) _
  | cfb => exact length_runBlocks _ (fun w d => length_cfbInvBlock p k w d) x _
  | ofb => exact length_fwd p .ofb k iv x hx
  | ctr => exact length_fwd p .ctr k iv x hx

/-- Settles O42: `length_fwd` and `length_inv`, mode by mode. -/
theorem transformsKeepLength : Obligations.TransformsKeepLength :=
  fun p m k v x hx => ⟨length_fwd p m k v x hx, length_inv p m k v x hx⟩

/-! ### OFB -/

/-- CHAIN before block `i` is the IV enciphered `i` times, whatever the data. -/
theorem workBefore_ofbBlock_chain (p : BlockPrimitive) (k : Key) (w : Work) (x : Bytes) (i : Nat) :
    (workBefore (ofbBlock p k) w x i).chain = (p.enc k)^[i] w.chain := by
  induction i with
  | zero => rfl
  | succ i ih => rw [Function.iterate_succ_apply', ← ih]; rfl

/-- Settles O37: block by block, with CHAIN from `workBefore_ofbBlock_chain`. -/
theorem ofbKeystream : Obligations.OfbKeystream := by
  intro p k v x
  refine ⟨fun i hi => ?_, length_fwd p .ofb k v x nofun⟩
  calc blk (fwd p .ofb k v x) i
      = (ofbBlock p k (workBefore (ofbBlock p k) (Work.start v) x i) (blk x i)).1 :=
        blk_runBlocks_of_length_eq (length_ofbBlock p k) _ x hi
    _ = xorTruncated (blk x i) (p.enc k ((p.enc k)^[i] v)) := by rw [ofbBlock, workBefore_ofbBlock_chain]; rfl
    _ = xorTruncated (blk x i) ((p.enc k)^[i + 1] v) := by rw [Function.iterate_succ_apply']

/-- Settles O40: one block step for both directions, and the inverse law. -/
theorem ofbInvolution : Obligations.OfbInvolution :=
  fun p k v x => ⟨rfl, inverseUndoesForward p .ofb k v x nofun⟩

/-! ### CTR -/

theorem ctrblk_zero (v : Block) : ctrblk v 0 = v := toBe16_be v

/-- The counter block is the sum mod 2^128, written big-endian (R140). -/
theorem be_ctrblk (v : Block) (i : Nat) : be (ctrblk v i).toList = (be v.toList + i) % 2 ^ 128 := by
  rw [ctrblk, be_toBe16, BitVec.toNat_ofNat]

/-- Settles O39: `be_ctrblk`, and the bound on IBUF_SIZE for the single wrap. -/
theorem counterIsBigEndian : Obligations.CounterIsBigEndian := by
  refine ⟨be_ctrblk, ctrblk_zero, fun v i hi => ?_⟩
  have hsize := Config.ibufSize_le
  have hv := be_block_lt v
  omega

/-- CTR before block `i` has been counted up `i` times, whatever the data. -/
theorem workBefore_ctrBlock_counter (p : BlockPrimitive) (k : Key) (w : Work) (x : Bytes) (i : Nat) :
    (workBefore (ctrBlock p k) w x i).counter = w.counter + BitVec.ofNat 128 i := by
  induction i with
  | zero => exact (BitVec.add_zero _).symm
  | succ i ih => rw [BitVec.ofNat_add, ← BitVec.add_assoc, ← ih]; rfl

/-- The running counter is the counter block of R140. -/
theorem toBe16_workBefore_ctrBlock (p : BlockPrimitive) (k : Key) (v : Block) (x : Bytes) (i : Nat) :
    toBe16 (workBefore (ctrBlock p k) (Work.start v) x i).counter = ctrblk v i := by
  rw [workBefore_ctrBlock_counter, ctrblk, BitVec.ofNat_add]; rfl

/-- Settles O38: block by block, with CTR from `toBe16_workBefore_ctrBlock`. -/
theorem ctrKeystream : Obligations.CtrKeystream := by
  intro p k v x
  refine ⟨fun i hi => ?_, length_fwd p .ctr k v x nofun⟩
  calc blk (fwd p .ctr k v x) i
      = (ctrBlock p k (workBefore (ctrBlock p k) (Work.start v) x i) (blk x i)).1 :=
        blk_runBlocks_of_length_eq (length_ctrBlock p k) _ x hi
    _ = xorTruncated (blk x i) (p.enc k (ctrblk v i)) := by rw [ctrBlock, toBe16_workBefore_ctrBlock]

/-- The counter wraps from all ones to zero (R142). -/
theorem ctrblk_ones_one : ctrblk (Vector.replicate 16 0xFF) 1 = Vector.replicate 16 0 := by decide

theorem blk_zero (x : Bytes) : blk x 0 = x.take 16 := rfl

theorem blk_one_of_length {x : Bytes} (h : x.length = 32) : blk x 1 = x.drop 16 :=
  List.take_of_length_le (by rw [List.length_drop]; omega)

/-- A string of two blocks is its two blocks. -/
theorem blk_zero_append_blk_one {x : Bytes} (h : x.length = 32) : blk x 0 ++ blk x 1 = x := by
  rw [blk_zero, blk_one_of_length h, List.take_append_drop]

/-- Settles O41: one block step for both directions and the inverse law; the two blocks of the example are those of
`ctrKeystream`. -/
theorem ctrInvolution : Obligations.CtrInvolution := by
  refine ⟨fun p k v x => ⟨rfl, inverseUndoesForward p .ctr k v x nofun⟩, fun p k x hx => ?_⟩
  obtain ⟨hblk, hlen⟩ := ctrKeystream p k (Vector.replicate 16 0xFF) x
  have hcount : blockCount x = 2 := by rw [blockCount, hx]
  rw [← blk_zero_append_blk_one (hlen.trans hx), hblk 0 (by omega), hblk 1 (by omega), ctrblk_zero, ctrblk_ones_one,
    blk_zero, blk_one_of_length hx]

end Sys2Proof.Proofs
end

section
/-! The Container Codec's parser: what `splitContainer` does below and from 16 bytes, and that it undoes `containerOf`
(42_container.md R171). -/

namespace Sys2Proof.Proofs

open Sys2Proof.Machine

/-- A string shorter than an IV is no container. -/
theorem splitContainer_of_lt {c : Bytes} (h : c.length < 16) : splitContainer c = .error .malformedContainer :=
  if_pos h

/-- From 16 bytes on, the IV is the first block and the ciphertext the rest. -/
theorem splitContainer_of_le {c : Bytes} (h : 16 ≤ c.length) :
    splitContainer c = .ok (blockOf (c.take 16), c.drop 16) :=
  if_neg (Nat.not_lt.mpr h)

theorem length_containerOf (v : Block) (ct : Bytes) : (containerOf v ct).length = 16 + ct.length := by
  rw [containerOf, List.length_append, Vector.length_toList]

theorem take_containerOf (v : Block) (ct : Bytes) : (containerOf v ct).take 16 = v.toList :=
  List.take_left' v.length_toList

theorem drop_containerOf (v : Block) (ct : Bytes) : (containerOf v ct).drop 16 = ct :=
  List.drop_left' v.length_toList

/-- The parser undoes the container format, for every IV and every ciphertext. -/
theorem splitContainer_containerOf (v : Block) (ct : Bytes) : splitContainer (containerOf v ct) = .ok (v, ct) := by
  have hlen : 16 ≤ (containerOf v ct).length := by rw [length_containerOf]; exact Nat.le_add_right 16 _
  rw [splitContainer_of_le hlen, take_containerOf, drop_containerOf, blockOf_toList]

/-- Settles O34: `splitContainer` below and from 16 bytes, and `splitContainer_containerOf`. -/
theorem containerSplit : Obligations.ContainerSplit := by
  refine ⟨fun c hc => splitContainer_of_lt hc, fun c hc => ?_, splitContainer_containerOf⟩
  exact ⟨blockOf (c.take 16), splitContainer_of_le hc, toList_blockOf_take c hc⟩

end Sys2Proof.Proofs
end

section
/-! A command that ends with OUT_VALID = 1: its checks passed and its operation gave an output; and the lengths of the
outputs, the table of 43_pipeline.md R183. -/

namespace Sys2Proof.Proofs

open Sys2Proof.Machine Sys2Proof.Spec

/-! ### A completion that raises OUT_VALID -/

/-- Acceptance has lowered OUT_VALID (R100), so a completion that leaves it 1 is the successful one (R101). -/
theorem finish_of_valid {n : Needs} {r : Except ErrorKind Output} {s : State} (h0 : s.status.outValid = false)
    (hv : (s.finish n r).status.outValid = true) :
    ∃ o, s.precheck n = none ∧ r = .ok o ∧ s.finish n r = s.succeed o := by
  rcases State.finish_cases n r s with ⟨e, _, hf⟩ | ⟨e, _, _, hf⟩ | hok
  · rw [hf] at hv
    exact absurd (h0.symm.trans hv) Bool.false_ne_true
  · rw [hf] at hv
    exact absurd (h0.symm.trans hv) Bool.false_ne_true
  · exact hok

/-! ### The table of lengths -/

/-- The table of R183: which output lengths `len` a command may have that succeeds on `l` bytes of input. Where the pad
count found is taken off, it is only said to be 1 to 16. -/
def LengthRow (i : Instr) (l len : Nat) : Prop :=
  match i with
  | .encryptCbcRng | .encryptCbcReg => len = 16 + 16 * (l / 16 + 1)
  | .encryptCfbRng | .encryptOfbRng | .encryptCtrRng | .encryptCfbReg | .encryptOfbReg | .encryptCtrReg => len = 16 + l
  | .decryptCbc => len + 1 ≤ l - 16 ∧ l - 16 ≤ len + 16
  | .decryptCfb | .decryptOfb | .decryptCtr => len + 16 = l
  | .xformFwdCbc | .xformFwdCfb | .xformFwdOfb | .xformFwdCtr => len = l
  | .xformInvCbc | .xformInvCfb | .xformInvOfb | .xformInvCtr => len = l
  | .padData => len = 16 * (l / 16 + 1)
  | .unpadData => len + 1 ≤ l ∧ l ≤ len + 16
  | .encodeContainer => len = 16 + l
  | .decodeContainer => len + 16 = l
  | .encryptNoMode _ _ | .decryptNoMode _ | .xformFwdNoMode _ | .xformInvNoMode _ => False

/-- No row exceeds the input by more than an IV and a block of padding. -/
theorem LengthRow.le {i : Instr} {l len : Nat} (h : LengthRow i l len) : len ≤ l + 32 := by
  cases i <;> simp only [LengthRow] at h <;> omega

/-- If an operation's result has a length of its row, so has OUT_LEN: that length fits OBUF, and so OUT_LEN holds it. -/
theorem finish_lengthRow {i : Instr} {n : Needs} {r : Except ErrorKind Output} {s : State}
    (h0 : s.status.outValid = false) (hv : (s.finish n r).status.outValid = true)
    (hlen : ∀ o, s.precheck n = none → r = .ok o → LengthRow i s.inLen.toNat o.out.length) :
    LengthRow i s.inLen.toNat (s.finish n r).outLen.toNat ∧ (s.finish n r).outLen.toNat ≤ Config.obufSize := by
  obtain ⟨o, hp, hr, hf⟩ := finish_of_valid h0 hv
  obtain ⟨_, _, hfits, _, _⟩ := (State.precheck_eq_none n s).mp hp
  have hrow := hlen o hp hr
  have hout : o.out.length ≤ Config.obufSize := by
    have hle := hrow.le
    have hsize := Config.obufSize_eq
    omega
  rw [hf, (State.succeeded_succeed o s hout).outLen]
  exact ⟨hrow, hout⟩

/-! ### The lengths of the operations' results -/

theorem length_encryptOutput_cbc (p : BlockPrimitive) (src : IvSrc) (k : Key) (iv : Block) (x : Bytes) :
    (encryptOutput p .cbc src k iv x).out.length = 16 + 16 * (x.length / 16 + 1) := by
  rw [length_encryptOutput, ← length_pad]
  rfl

/-- The modes other than CBC do not pad (R114). -/
theorem length_encryptOutput_stream (p : BlockPrimitive) {m : Mode} (hm : isCbc m = false) (src : IvSrc) (k : Key)
    (iv : Block) (x : Bytes) : (encryptOutput p m src k iv x).out.length = 16 + x.length := by
  rw [length_encryptOutput, encryptInput, hm, if_neg Bool.false_ne_true]

theorem length_of_unpad_ok {y z : Bytes} (h : unpad y = .ok z) : z.length + 1 ≤ y.length ∧ y.length ≤ z.length + 16 := by
  obtain ⟨_, n, h1, h16, rfl⟩ := padded_of_unpad_ok h
  rw [List.length_append, List.length_replicate]
  omega

/-- A result mapped to a plain output is that output. -/
theorem of_map_plainOutput_eq_ok {r : Except ErrorKind Bytes} {o : Output} (h : r.map plainOutput = .ok o) :
    r = .ok o.out := by
  cases r with
  | error e => cases h
  | ok x => cases h; rfl

/-- What DECRYPT gives, when it gives something, is the end of DECRYPT on the deciphered text, whose length is that of
the ciphertext (R144, R181). -/
theorem decryptFinish_of_decryptOutput_ok {p : BlockPrimitive} {m : Mode} {k : Key} {x : Bytes} {o : Output}
    (h16 : 16 ≤ x.length) (hx : m = .cbc → x.length % 16 = 0) (h : decryptOutput p m k x = .ok o) :
    ∃ y, decryptFinish m y = .ok o.out ∧ y.length = x.length - 16 := by
  rw [decryptOutput, splitContainer_of_le h16] at h
  have hadm : Admissible m (x.drop 16) := fun hm => by
    rw [List.length_drop]
    have halign := hx hm
    omega
  exact ⟨_, of_map_plainOutput_eq_ok h, (length_inv p m k _ _ hadm).trans List.length_drop⟩

/-- The same for a state that has passed DECRYPT's checks. -/
theorem decryptFinish_of_precheck {m : Mode} {s : State} {o : Output} (hp : s.precheck (decryptNeeds m) = none)
    (h : decryptOutput Config.primitive m s.key s.input = .ok o) :
    ∃ y, decryptFinish m y = .ok o.out ∧ y.length = s.inLen.toNat - 16 ∧ 16 ≤ s.inLen.toNat := by
  obtain ⟨_, _, _, h16, halign⟩ := (State.precheck_eq_none _ s).mp hp
  rw [← State.length_input s] at *
  obtain ⟨y, hy, hlen⟩ := decryptFinish_of_decryptOutput_ok (h16 rfl) (fun hm => halign (by rw [hm]; rfl)) h
  exact ⟨y, hy, hlen, h16 rfl⟩

/-- A state that has passed the checks of XFORM_FWD and XFORM_INV has admissible data (R135). -/
theorem admissible_of_precheck {m : Mode} {s : State} (hp : s.precheck (xformNeeds m) = none) :
    Admissible m s.input := by
  rintro rfl
  obtain ⟨_, _, _, _, halign⟩ := (State.precheck_eq_none _ s).mp hp
  rw [State.length_input]
  exact halign rfl

/-! ### The table holds -/

/-- Every command that leaves OUT_VALID = 1 has given an output with a length of its row of R183, and it fits OBUF. -/
theorem exec_lengthRow {i : Instr} {s t : State} (h0 : s.status.outValid = false) (ht : exec i s = .next t)
    (hv : t.status.outValid = true) : LengthRow i s.inLen.toNat t.outLen.toNat ∧ t.outLen.toNat ≤ Config.obufSize := by
  cases i <;> cases ht
  case encryptCbcRng | encryptCbcReg =>
    refine finish_lengthRow h0 hv fun o _ ho => ?_
    cases ho
    exact s.length_input ▸ length_encryptOutput_cbc _ _ _ _ s.input
  case encryptCfbRng | encryptOfbRng | encryptCtrRng | encryptCfbReg | encryptOfbReg | encryptCtrReg =>
    refine finish_lengthRow h0 hv fun o _ ho => ?_
    cases ho
    exact s.length_input ▸ length_encryptOutput_stream _ rfl _ _ _ s.input
  case decryptCbc =>
    refine finish_lengthRow h0 hv fun o hp ho => ?_
    obtain ⟨y, hy, hlen, _⟩ := decryptFinish_of_precheck hp ho
    have hpad := length_of_unpad_ok hy
    rw [hlen] at hpad
    exact hpad
  case decryptCfb | decryptOfb | decryptCtr =>
    refine finish_lengthRow h0 hv fun o hp ho => ?_
    obtain ⟨y, hy, hlen, h16⟩ := decryptFinish_of_precheck hp ho
    cases hy
    exact (congrArg (· + 16) hlen).trans (Nat.sub_add_cancel h16)
  case xformFwdCbc | xformFwdCfb | xformFwdOfb | xformFwdCtr =>
    refine finish_lengthRow h0 hv fun o hp ho => ?_
    cases ho
    exact (length_fwd _ _ _ _ _ (admissible_of_precheck hp)).trans s.length_input
  case xformInvCbc | xformInvCfb | xformInvOfb | xformInvCtr =>
    refine finish_lengthRow h0 hv fun o hp ho => ?_
    cases ho
    exact (length_inv _ _ _ _ _ (admissible_of_precheck hp)).trans s.length_input
  case padData =>
    refine finish_lengthRow h0 hv fun o _ ho => ?_
    cases ho
    exact s.length_input ▸ length_pad s.input
  case unpadData =>
    refine finish_lengthRow h0 hv fun o _ ho => ?_
    exact s.length_input ▸ length_of_unpad_ok (of_map_plainOutput_eq_ok ho)
  case encodeContainer =>
    refine finish_lengthRow h0 hv fun o _ ho => ?_
    cases ho
    exact s.length_input ▸ length_containerOf s.iv s.input
  case decodeContainer =>
    refine finish_lengthRow h0 hv fun o hp ho => ?_
    obtain ⟨_, _, _, h16, _⟩ := (State.precheck_eq_none _ s).mp hp
    rw [splitContainer_of_le (s.length_input ▸ h16 rfl)] at ho
    cases ho
    show (s.input.drop 16).length + 16 = s.inLen.toNat
    rw [List.length_drop, s.length_input, Nat.sub_add_cancel (h16 rfl)]
  case encryptNoMode | decryptNoMode | xformFwdNoMode | xformInvNoMode =>
    exact absurd (h0.symm.trans hv) Bool.false_ne_true

/-- Settles O54: `exec_lengthRow`, row by row; the pad count is what the output lacks. -/
theorem outputLengths : Obligations.OutputLengths := by
  intro s t i h0 ht hv
  obtain ⟨hrow, hfits⟩ := exec_lengthRow h0 ht hv
  refine ⟨fun hi => ?_, fun hi => ?_, ?_, fun hi => ?_, fun hi => ?_, ?_, ?_, hfits⟩
  · fin_cases hi <;> exact hrow
  · fin_cases hi <;> exact hrow
  · rintro rfl
    obtain ⟨hlo, hhi⟩ := hrow
    exact ⟨s.inLen.toNat - 16 - t.outLen.toNat, by omega, by omega, by omega⟩
  · fin_cases hi <;> exact hrow
  · fin_cases hi <;> exact hrow
  · rintro rfl
    exact hrow
  · rintro rfl
    obtain ⟨hlo, hhi⟩ := hrow
    exact ⟨s.inLen.toNat - t.outLen.toNat, by omega, by omega, by omega⟩

end Sys2Proof.Proofs
end

section
/-! The round trip of the pipeline: what ENCRYPT leaves in OBUF, and DECRYPT on it (43_pipeline.md R184). -/

namespace Sys2Proof.Proofs

open Sys2Proof.Machine Sys2Proof.Spec

/-! ### ENCRYPT -/

/-- The instructions of `encryptForms` are ENCRYPT of their mode and IV source. -/
theorem exec_encryptForms {i : Instr} {m : Mode} {src : IvSrc} (h : (i, m, src) ∈ encryptForms) (s : State) :
    exec i s = .next (s.encrypt m src) := by
  simp only [encryptForms, List.mem_cons, Prod.mk.injEq, List.not_mem_nil, or_false] at h
  rcases h with ⟨rfl, rfl, rfl⟩ | ⟨rfl, rfl, rfl⟩ | ⟨rfl, rfl, rfl⟩ | ⟨rfl, rfl, rfl⟩ | ⟨rfl, rfl, rfl⟩ |
    ⟨rfl, rfl, rfl⟩ | ⟨rfl, rfl, rfl⟩ | ⟨rfl, rfl, rfl⟩ <;> rfl

/-- An ENCRYPT that ends with OUT_VALID = 1 had the key declared and has succeeded with its container (R180). -/
theorem encrypt_succeeded_of_valid {m : Mode} {src : IvSrc} {s : State} (h0 : s.status.outValid = false)
    (hv : (s.encrypt m src).status.outValid = true) :
    s.keyLen = 32 ∧ Succeeded s (s.encrypt m src)
      (encryptOutput Config.primitive m src s.key (s.encryptIv src) s.input).out s.iv s.ivLen
      (if isReg src then 0 else 1) := by
  obtain ⟨_, hp, _, _⟩ := finish_of_valid h0 hv
  obtain ⟨hk, hiv, hl, _, _⟩ := (State.precheck_eq_none _ s).mp hp
  exact ⟨hk rfl, encrypt_succeeded m src s (hk rfl) hiv hl⟩

/-! ### DECRYPT -/

/-- The instructions of `decryptForms` are DECRYPT of their mode. -/
theorem exec_decryptForms {j : Instr} {m : Mode} (h : (j, m) ∈ decryptForms) (s : State) :
    exec j s = .next (s.decrypt m) := by
  simp only [decryptForms, List.mem_cons, Prod.mk.injEq, List.not_mem_nil, or_false] at h
  rcases h with ⟨rfl, rfl⟩ | ⟨rfl, rfl⟩ | ⟨rfl, rfl⟩ | ⟨rfl, rfl⟩ <;> rfl

/-- A DECRYPT whose checks pass, and whose operation gives an output no longer than its input, succeeds with it. -/
theorem decrypt_succeeded {m : Mode} {s : State} {x : Bytes} (hp : s.precheck (decryptNeeds m) = none)
    (hr : decryptOutput Config.primitive m s.key s.input = .ok (plainOutput x)) (hx : x.length ≤ s.inLen.toNat) :
    Succeeded s (s.decrypt m) x s.iv s.ivLen 0 := by
  obtain ⟨_, _, hfits, _, _⟩ := (State.precheck_eq_none _ s).mp hp
  have hz := Config.obufSize_eq
  rw [State.decrypt, hr, State.finish_ok hp]
  exact State.succeeded_succeed (plainOutput x) s (show x.length ≤ _ by omega)

/-! ### DECRYPT of ENCRYPT's container -/

/-- The end of DECRYPT takes off what ENCRYPT has put on its input: CBC's padding, by R113, and nothing else. -/
theorem decryptFinish_encryptInput (m : Mode) (x : Bytes) : decryptFinish m (encryptInput m x) = .ok x := by
  cases m with
  | cbc => exact unpad_pad x
  | cfb | ofb | ctr => rfl

/-- DECRYPT's operation undoes ENCRYPT's, for every primitive, mode, key, IV and string (R113, R145, R171). -/
theorem decryptOutput_encryptOutput (p : BlockPrimitive) (m : Mode) (src : IvSrc) (k : Key) (iv : Block) (x : Bytes) :
    decryptOutput p m k (encryptOutput p m src k iv x).out = .ok (plainOutput x) := by
  simp only [decryptOutput, encryptOutput, splitContainer_containerOf,
    inverseUndoesForward p m k iv _ (admissible_encryptInput m x), decryptFinish_encryptInput, Except.map]

theorem le_length_encryptInput (m : Mode) (x : Bytes) : x.length ≤ (encryptInput m x).length := by
  cases m with
  | cbc =>
    show x.length ≤ (pad x).length
    rw [length_pad]
    omega
  | cfb | ofb | ctr => exact Nat.le_refl _

theorem eq_cbc_of_isCbc {m : Mode} (h : isCbc m = true) : m = .cbc := by
  cases m with
  | cbc => rfl
  | cfb | ofb | ctr => cases h

/-- A state that holds ENCRYPT's container as its input and has the key declared passes DECRYPT's checks. -/
theorem precheck_decrypt_of_container {m : Mode} {u : State} {x : Bytes} (hk : u.keyLen = 32)
    (hlen : u.inLen.toNat = 16 + (encryptInput m x).length) (hfits : u.inLen.toNat ≤ Config.ibufSize) :
    u.precheck (decryptNeeds m) = none := by
  refine (State.precheck_eq_none _ u).mpr ⟨fun _ => hk, (absurd · Bool.false_ne_true), hfits, fun _ => by omega, ?_⟩
  intro ha
  have halign := admissible_encryptInput m x (eq_cbc_of_isCbc ha)
  omega

/-- Settles O55: the copied output is ENCRYPT's container, which passes DECRYPT's checks, and
`decryptOutput_encryptOutput`. -/
theorem encryptDecryptRoundTrip : Obligations.EncryptDecryptRoundTrip := by
  intro i j m src s t hi hj h0 ht hv
  cases (exec_encryptForms hi s).symm.trans ht
  obtain ⟨hk, hs⟩ := encrypt_succeeded_of_valid h0 hv
  have hlen := hs.outLen
  rw [length_encryptOutput] at hlen
  refine ⟨fun u hkey hkl hin hfits hcopy => ⟨_, exec_decryptForms hj u, ?_⟩, fun hroom => ?_⟩
  · have hinput : u.input = (encryptOutput Config.primitive m src s.key (s.encryptIv src) s.input).out := by
      refine List.ext_getElem (by rw [State.length_input, hin, hs.outLen]) fun n hn hn' => ?_
      rw [State.getElem_input, hcopy n (by rw [hs.outLen]; exact hn'), hs.bytes n hn']
    rw [← hin] at hlen hfits
    refine decrypt_succeeded (precheck_decrypt_of_container ((hkl.trans hs.kept.keyLen).trans hk) hlen hfits) ?_ ?_
    · rw [hkey, hs.kept.key, hinput, decryptOutput_encryptOutput]
    · have hle := le_length_encryptInput m s.input
      omega
  · have hle := length_encryptInput_le m s.input
    rw [State.length_input] at hle
    omega

end Sys2Proof.Proofs
end

section
/-! A completion as one of its two cases: irq over it and over the other events that irq answers to (R214), what a
failed command leaves (R211), and the completion of an illegal word (R205). -/

namespace Sys2Proof.Proofs

open Sys2Proof.Machine Sys2Proof.Spec

/-! ### The completion step -/

theorem step_of_completionNext {s : State} {rest : List Event} (h : CompletionNext s rest) :
    step s = State.runCommand { s with events := rest } := by
  obtain ⟨hr, hb, he⟩ := h
  exact step_of_sequencer he hr hb

/-- A completion step ends the command in one of the two ways of R101. -/
theorem isFinish_of_completionNext {s : State} {rest : List Event} (h : CompletionNext s rest) :
    ∃ t, step s = .next t ∧ IsFinish t { s with events := rest } := by
  rw [step_of_completionNext h]
  exact State.runCommand_cases _

/-! ### irq -/

/-- Every completion raises DONE and keeps DONE_IE, which irq then equals. -/
theorem irq_of_isFinish {s t : State} (h : IsFinish t s) : t.irq = s.doneIe := by
  rcases h with ⟨e, rfl⟩ | ⟨o, rfl⟩
  · rw [State.irq, State.fail_status, Status.fail_done, State.fail_doneIe, Bool.true_and]
  · rw [State.irq, State.succeed_status, Status.succeed_done, State.succeed_doneIe, Bool.true_and]

theorem irq_of_not_done {s : State} (h : s.status.done = false) : s.irq = false := by
  rw [State.irq, h, Bool.false_and]

/-- SRST and ACK both clear DONE (R22). -/
theorem writeCtrl_done {w : Word} (s : State) (hw : w.getLsbD 0 = true ∨ w.getLsbD 1 = true) :
    (s.writeCtrl w).status.done = false := by
  rcases State.writeCtrl_cases w s with ⟨_, hc⟩ | ⟨h0, hc⟩ <;> rw [hc]
  · rfl
  · have hack : w.getLsbD 1 = true := hw.resolve_left (by rw [h0]; exact Bool.false_ne_true)
    simp [hack]

/-- A pin that leaves 0 has taken the values of the hardware reset (R230). -/
theorem setResetPin_done {s : State} (level : Bool) (h : s.rstN = false) :
    (s.setResetPin level).status.done = false := by
  rcases State.setResetPin_cases level s with ⟨_, hr, _⟩ | hp
  · exact absurd (h.symm.trans hr) Bool.false_ne_true
  · rw [hp]
    rfl

/-- Settles O27: every event that irq answers to, by what it leaves in DONE and DONE_IE. -/
theorem interruptOutput : Obligations.InterruptOutput := by
  refine ⟨fun s => rfl, fun s t i ht => ?_, fun s rest h => ?_, fun s w rest h hw => ?_,
    fun s w rest h hb => ?_, fun s rest hr he => ?_, fun s w rest h => ?_⟩
  · obtain ⟨u, hu, hf⟩ := exec_cases i s
    cases hu.symm.trans ht
    exact irq_of_isFinish hf
  · obtain ⟨t, ht, hf⟩ := isFinish_of_completionNext h
    exact ⟨t, ht, (irq_of_isFinish hf :)⟩
  · exact ⟨_, step_of_writeNext h decodeAddr_ctrl (.inr rfl), irq_of_not_done (writeCtrl_done _ hw)⟩
  · exact ⟨_, step_of_writeNext h decodeAddr_cmd (.inl hb), irq_of_not_done rfl⟩
  · exact ⟨_, step_of_resetPin he, irq_of_not_done (setResetPin_done true hr)⟩
  · exact ⟨_, step_of_writeNext h decodeAddr_irqEn (.inr rfl), rfl⟩

/-! ### A failed command -/

/-- Settles O53: OUT_VALID is still 0, so the completion was the one with an error, and `State.failed_fail` says what
that leaves. -/
theorem failedCommandLeavesNoPartialResult : Obligations.FailedCommandLeavesNoPartialResult := by
  intro s t rest h _ hlen ht hv
  obtain ⟨u, hu, hf⟩ := isFinish_of_completionNext h
  cases hu.symm.trans ht
  rcases hf with ⟨e, rfl⟩ | ⟨o, rfl⟩
  · have hfail := State.failed_fail e { s with events := rest }
    exact ⟨rfl, e.code_ne_zero, hlen, hfail.ivr, hfail.ivlen, hfail.kept, hfail.obuf⟩
  · exact absurd hv.symm Bool.false_ne_true

/-! ### An illegal word -/

/-- A word that is not legal completes with IllegalCommand (check 1 of R207). -/
theorem runCommand_of_not_legal {s : State} (h : ¬ Legal s.cmdLatch) :
    s.runCommand = .next (s.fail .illegalCommand) := by
  unfold State.runCommand State.fetchCommand
  split
  next i hd => exact absurd ((decode_ok_iff_legal _).mp ⟨i, hd⟩) h
  next => rfl

/-- Settles O51: the CMD write accepts whatever word it carries, and the completion finds that it is not legal. -/
theorem illegalWordIsAcceptedAndFails : Obligations.IllegalWordIsAcceptedAndFails := by
  intro s w rest hw hr hb he
  have haccept : step s = .next (State.accept w { s with events := .sequencer :: rest }) :=
    step_of_writeNext ⟨hr, he⟩ decodeAddr_cmd (.inl hb)
  have hnext : CompletionNext (State.accept w { s with events := .sequencer :: rest }) rest := ⟨hr, rfl, rfl⟩
  have hfail := (step_of_completionNext hnext).trans (runCommand_of_not_legal hw)
  exact ⟨_, _, haccept, rfl, rfl, rfl, hfail, rfl, rfl, rfl, rfl, rfl, rfl, rfl⟩

end Sys2Proof.Proofs
end

section
/-! The checks of R207 in their order: a command as its checks and its operation, the checks that a word calls for
against R207's formula, and which commands can fail where none applies (check 8). -/

namespace Sys2Proof.Proofs

open Sys2Proof.Machine Sys2Proof.Spec

/-! ### The operation of a command that has passed its checks -/

/-- What an operation may give after the checks: an output that fits OBUF, or, for UNPAD and DECRYPT.cbc alone,
InvalidPadding (R207, check 8). -/
inductive CheckedResult (i : Instr) (s : State) : Except ErrorKind Output → Prop where
  | ok (o : Output) (h : o.out.length ≤ s.input.length + 32) : CheckedResult i s (.ok o)
  | error (h : i = .unpadData ∨ i = .decryptCbc) : CheckedResult i s (.error .invalidPadding)

/-- A completion with such a result is a success, or UNPAD or DECRYPT.cbc with InvalidPadding. -/
theorem CheckedResult.finish {i : Instr} {n : Needs} {s : State} {r : Except ErrorKind Output}
    (hr : CheckedResult i s r) (hp : s.precheck n = none) :
    (∃ out v vl d, Succeeded s (s.finish n r) out v vl d)
      ∨ (i = .unpadData ∨ i = .decryptCbc) ∧ Failed s (s.finish n r) 3 := by
  cases hr with
  | ok o h =>
    obtain ⟨_, _, hfits, _, _⟩ := (State.precheck_eq_none n s).mp hp
    have hsize := Config.obufSize_eq
    rw [State.length_input] at h
    rw [State.finish_ok hp]
    exact .inl ⟨_, _, _, _, State.succeeded_succeed o s (by omega)⟩
  | error h =>
    rw [State.finish_error hp]
    exact .inr ⟨h, State.failed_fail .invalidPadding s⟩

theorem checkedResult_of_length_le {i : Instr} {s : State} {x : Bytes} (hx : x.length ≤ s.input.length) :
    CheckedResult i s (.ok (plainOutput x)) := .ok _ (hx.trans (Nat.le_add_right _ 32))

theorem error_of_unpad {y : Bytes} {e : ErrorKind} (h : unpad y = .error e) : e = .invalidPadding := by
  unfold unpad at h
  split at h
  · cases h; rfl
  split at h
  · cases h; rfl
  dsimp only at h
  split at h
  · cases h; rfl
  split at h
  · cases h; rfl
  · cases h

/-- `unpad` at the end of a command that may fail with it. -/
theorem checkedResult_unpad {i : Instr} {s : State} {y : Bytes} (hi : i = .unpadData ∨ i = .decryptCbc)
    (hy : y.length ≤ s.input.length) : CheckedResult i s ((unpad y).map plainOutput) := by
  cases hu : unpad y with
  | error e => exact error_of_unpad hu ▸ .error hi
  | ok z =>
    have hlen := length_of_unpad_ok hu
    exact checkedResult_of_length_le (x := z) (by omega)

theorem checkedResult_encrypt (i : Instr) (m : Mode) (src : IvSrc) (s : State) :
    CheckedResult i s (.ok (encryptOutput Config.primitive m src s.key (s.encryptIv src) s.input)) := by
  have hlen := length_encryptInput_le m s.input
  exact .ok _ (by rw [length_encryptOutput]; omega)

/-- After its checks a DECRYPT has a container with an admissible ciphertext, and gives the end of DECRYPT on a text that
is no longer than its input (R144, R171, R181). -/
theorem exists_decryptFinish_of_precheck {m : Mode} {s : State} (hp : s.precheck (decryptNeeds m) = none) :
    ∃ y, decryptOutput Config.primitive m s.key s.input = (decryptFinish m y).map plainOutput
      ∧ y.length ≤ s.input.length := by
  obtain ⟨_, _, _, h16, halign⟩ := (State.precheck_eq_none _ s).mp hp
  rw [← State.length_input] at *
  have hadm : Admissible m (s.input.drop 16) := by
    rintro rfl
    have haligned := halign rfl
    rw [List.length_drop]
    omega
  refine ⟨inv Config.primitive m s.key (blockOf (s.input.take 16)) (s.input.drop 16), ?_, ?_⟩
  · rw [decryptOutput, splitContainer_of_le (h16 rfl)]
  · rw [length_inv _ _ _ _ _ hadm, List.length_drop]
    omega

theorem checkedResult_decryptCbc {s : State} (hp : s.precheck (decryptNeeds .cbc) = none) :
    CheckedResult .decryptCbc s (decryptOutput Config.primitive .cbc s.key s.input) := by
  obtain ⟨y, hy, hlen⟩ := exists_decryptFinish_of_precheck hp
  exact hy ▸ checkedResult_unpad (.inr rfl) hlen

/-- The modes other than CBC do not unpad, so nothing is left that could fail (R114). -/
theorem checkedResult_decrypt_stream {i : Instr} {m : Mode} {s : State} (hm : isCbc m = false)
    (hp : s.precheck (decryptNeeds m) = none) :
    CheckedResult i s (decryptOutput Config.primitive m s.key s.input) := by
  obtain ⟨y, hy, hlen⟩ := exists_decryptFinish_of_precheck hp
  rw [hy, decryptFinish, hm, if_neg Bool.false_ne_true]
  exact checkedResult_of_length_le hlen

/-! ### A command as its checks and its operation -/

/-- Which of the checks 3 to 7 a command has, or none where check 2 is its whole effect (R201). -/
def commandNeeds : Instr → Option Needs
  | .encryptCbcRng | .encryptCfbRng | .encryptOfbRng | .encryptCtrRng => some (encryptNeeds .rng)
  | .encryptCbcReg | .encryptCfbReg | .encryptOfbReg | .encryptCtrReg => some (encryptNeeds .reg)
  | .decryptCbc => some (decryptNeeds .cbc)
  | .decryptCfb => some (decryptNeeds .cfb)
  | .decryptOfb => some (decryptNeeds .ofb)
  | .decryptCtr => some (decryptNeeds .ctr)
  | .xformFwdCbc | .xformInvCbc => some (xformNeeds .cbc)
  | .xformFwdCfb | .xformInvCfb => some (xformNeeds .cfb)
  | .xformFwdOfb | .xformInvOfb => some (xformNeeds .ofb)
  | .xformFwdCtr | .xformInvCtr => some (xformNeeds .ctr)
  | .padData | .unpadData => some paddingNeeds
  | .encodeContainer => some encodeNeeds
  | .decodeContainer => some decodeNeeds
  | .encryptNoMode _ _ | .decryptNoMode _ | .xformFwdNoMode _ | .xformInvNoMode _ => none

theorem exec_of_commandNeeds_none {i : Instr} (h : commandNeeds i = none) (s : State) :
    exec i s = .next (s.fail .unsupportedMode) := by
  cases i <;> cases h <;> rfl

/-- Every other command is its checks and then its operation, command by command (R102). -/
theorem exec_of_commandNeeds_some {i : Instr} {n : Needs} (h : commandNeeds i = some n) (s : State) :
    ∃ r, exec i s = .next (s.finish n r) ∧ (s.precheck n = none → CheckedResult i s r) := by
  cases i <;> cases h
  case encryptCbcRng | encryptCfbRng | encryptOfbRng | encryptCtrRng
      | encryptCbcReg | encryptCfbReg | encryptOfbReg | encryptCtrReg =>
    exact ⟨_, rfl, fun _ => checkedResult_encrypt _ _ _ s⟩
  case decryptCbc => exact ⟨_, rfl, checkedResult_decryptCbc⟩
  case decryptCfb | decryptOfb | decryptCtr => exact ⟨_, rfl, checkedResult_decrypt_stream rfl⟩
  case xformFwdCbc | xformFwdCfb | xformFwdOfb | xformFwdCtr =>
    exact ⟨_, rfl, fun hp => checkedResult_of_length_le (length_fwd _ _ _ _ _ (admissible_of_precheck hp)).le⟩
  case xformInvCbc | xformInvCfb | xformInvOfb | xformInvCtr =>
    exact ⟨_, rfl, fun hp => checkedResult_of_length_le (length_inv _ _ _ _ _ (admissible_of_precheck hp)).le⟩
  case padData =>
    have hlen := length_pad s.input
    exact ⟨_, rfl, fun _ => .ok _ (show (pad s.input).length ≤ _ by omega)⟩
  case unpadData => exact ⟨_, rfl, fun _ => checkedResult_unpad (.inl rfl) le_rfl⟩
  case encodeContainer =>
    have hlen := length_containerOf s.iv s.input
    exact ⟨_, rfl, fun _ => .ok _ (show (containerOf s.iv s.input).length ≤ _ by omega)⟩
  case decodeContainer =>
    refine ⟨_, rfl, fun hp => ?_⟩
    obtain ⟨_, _, _, h16, _⟩ := (State.precheck_eq_none _ s).mp hp
    have hlen := List.length_drop (i := 16) (l := s.input)
    rw [splitContainer_of_le (s.length_input ▸ h16 rfl)]
    exact .ok _ (show (s.input.drop 16).length ≤ _ by omega)

/-! ### The checks that a word calls for -/

/-- Which of the checks 3 to 7 apply to a word, by the conditions that R207 puts on its fields. -/
def wordNeeds (w : Word) : Needs where
  key := decide ((opField w).toNat ∈ [1, 2, 3, 4])
  iv := decide (((opField w).toNat = 1 ∧ (ivsrcField w).toNat = 1) ∨ (opField w).toNat ∈ [3, 4, 7])
  container := decide ((opField w).toNat ∈ [2, 8])
  aligned := decide ((opField w).toNat ∈ [2, 3, 4] ∧ (modeField w).toNat = 0)

theorem commandNeeds_of_supported {w : Word} {i : Instr} (hw : w ∈ supportedWords) (hd : decode w = .ok i) :
    commandNeeds i = some (wordNeeds w) := by
  have table : ∀ w ∈ supportedWords, (decode w).toOption.map commandNeeds = some (some (wordNeeds w)) :=
    forall_mem_of_all (by decide)
  have hrow := table w hw
  rw [hd] at hrow
  exact Option.some.inj hrow

theorem commandNeeds_of_unsupported {w : Word} {i : Instr} (hw : w ∈ unsupportedWords) (hd : decode w = .ok i) :
    commandNeeds i = none := by
  have table : ∀ w ∈ unsupportedWords, (decode w).toOption.map commandNeeds = some none :=
    forall_mem_of_all (by decide)
  have hrow := table w hw
  rw [hd] at hrow
  exact Option.some.inj hrow

/-- The words of the two commands that check 8 applies to (R96). -/
theorem word_of_unpadding {w : Word} {i : Instr} (hw : w ∈ supportedWords) (hd : decode w = .ok i)
    (hi : i = .unpadData ∨ i = .decryptCbc) : w = 0x06 ∨ w = 0x02 := by
  have table : ∀ w ∈ supportedWords, (decode w).toOption = some .unpadData ∨ (decode w).toOption = some .decryptCbc →
      w = 0x06 ∨ w = 0x02 := forall_mem_of_all (by decide)
  refine table w hw ?_
  rw [hd]
  exact hi.imp (congrArg some) (congrArg some)

/-! ### R207's formula -/

theorem precheck_of_not_legal {w : Word} (hw : ¬ Legal w) (kl vl : Byte) (l : Nat) : precheck w kl vl l = some 5 :=
  if_pos hw

theorem precheck_of_unsupported {w : Word} (hw : w ∈ unsupportedWords) (kl vl : Byte) (l : Nat) :
    precheck w kl vl l = some 1 := by
  have hl : Legal w := (legal_iff_mem_table w).mpr (.inr hw)
  unfold precheck
  rw [if_neg (not_not.mpr hl), if_pos ((mem_unsupportedWords_iff hl).mp hw)]

/-- For a supported word R207's formula is the model's own checks 3 to 7, in the same order. -/
theorem precheck_of_supported {w : Word} (hw : w ∈ supportedWords) (s : State) :
    precheck w s.keyLen s.ivLen s.inLen.toNat = (s.precheck (wordNeeds w)).map ErrorKind.code := by
  have hl : Legal w := (legal_iff_mem_table w).mpr (.inl hw)
  have hu : w ∉ unsupportedWords := List.disjoint_of_nodup_append table_nodup hw
  unfold precheck
  rw [if_neg (not_not.mpr hl), if_neg (mt (mem_unsupportedWords_iff hl).mpr hu)]
  simp only [State.precheck, wordNeeds, decide_eq_true_eq, and_assoc, apply_ite (Option.map ErrorKind.code)]
  rfl

/-! ### The order of the checks -/

/-- The three kinds of word that checks 1 and 2 tell apart, each with its completion. -/
theorem runCommand_cases_of_word (s : State) :
    (¬ Legal s.cmdLatch ∧ s.runCommand = .next (s.fail .illegalCommand))
    ∨ (s.cmdLatch ∈ unsupportedWords ∧ s.runCommand = .next (s.fail .unsupportedMode))
    ∨ (s.cmdLatch ∈ supportedWords ∧ ∃ i r, decode s.cmdLatch = .ok i
        ∧ s.runCommand = .next (s.finish (wordNeeds s.cmdLatch) r)
        ∧ (s.precheck (wordNeeds s.cmdLatch) = none → CheckedResult i s r)) := by
  by_cases hl : Legal s.cmdLatch
  case neg => exact .inl ⟨hl, runCommand_of_not_legal hl⟩
  obtain ⟨i, hd⟩ := (decode_ok_iff_legal _).mpr hl
  have hrun : s.runCommand = exec i s := by rw [State.runCommand, State.fetchCommand, hd]
  rw [hrun]
  rcases (legal_iff_mem_table _).mp hl with hw | hw
  · obtain ⟨r, he, hr⟩ := exec_of_commandNeeds_some (commandNeeds_of_supported hw hd) s
    exact .inr (.inr ⟨hw, i, r, hd, he, hr⟩)
  · exact .inr (.inl ⟨hw, exec_of_commandNeeds_none (commandNeeds_of_unsupported hw hd) s⟩)

/-- The first of the checks 1 to 7 that applies is the error. -/
theorem failed_of_precheck {s : State} {c : BitVec 4}
    (h : precheck s.cmdLatch s.keyLen s.ivLen s.inLen.toNat = some c) : ∃ t, s.runCommand = .next t ∧ Failed s t c := by
  rcases runCommand_cases_of_word s with ⟨hw, hrun⟩ | ⟨hw, hrun⟩ | ⟨hw, i, r, _, hrun, _⟩
  · cases (precheck_of_not_legal hw _ _ _).symm.trans h
    exact ⟨_, hrun, State.failed_fail .illegalCommand s⟩
  · cases (precheck_of_unsupported hw _ _ _).symm.trans h
    exact ⟨_, hrun, State.failed_fail .unsupportedMode s⟩
  · obtain ⟨e, he, rfl⟩ := Option.map_eq_some_iff.mp ((precheck_of_supported hw s).symm.trans h)
    exact ⟨_, hrun, State.finish_of_precheck_error r he ▸ State.failed_fail e s⟩

/-- Where none of the checks 1 to 7 applies, only check 8 is left. -/
theorem finished_of_precheck_none {s : State}
    (h : precheck s.cmdLatch s.keyLen s.ivLen s.inLen.toNat = none) :
    ∃ t, s.runCommand = .next t
      ∧ ((∃ out v vl d, Succeeded s t out v vl d) ∨ (s.cmdLatch = 0x06 ∨ s.cmdLatch = 0x02) ∧ Failed s t 3) := by
  rcases runCommand_cases_of_word s with ⟨hw, _⟩ | ⟨hw, _⟩ | ⟨hw, i, r, hd, hrun, hr⟩
  · cases (precheck_of_not_legal hw _ _ _).symm.trans h
  · cases (precheck_of_unsupported hw _ _ _).symm.trans h
  · have hp := Option.map_eq_none_iff.mp ((precheck_of_supported hw s).symm.trans h)
    exact ⟨_, hrun, ((hr hp).finish hp).imp_right (And.imp_left (word_of_unpadding hw hd))⟩

/-- Settles O52: the completion step runs the command, and the two cases of R207's formula are those of the model's own
checks. -/
theorem checkOrder : Obligations.CheckOrder := by
  intro s rest h
  rw [step_of_completionNext h]
  exact ⟨fun c hc => failed_of_precheck (s := { s with events := rest }) hc,
    finished_of_precheck_none (s := { s with events := rest })⟩

end Sys2Proof.Proofs
end

section
/-! The two resets: the registers that both leave at the values of R48, the engine while the pin holds it in reset
(70_reset_and_hazards.md R230), and the soft reset by a CTRL write (R231). -/

namespace Sys2Proof.Proofs

open Sys2Proof.Machine Sys2Proof.Spec

/-! ### The reset values -/

/-- The table of R48 fixes neither IBUF nor what a reset lets go on: the draw counters, the pin, the host's last read
and the inputs to come. -/
theorem inResetState_reset_with (mem : Memory) (d : Draws) (pin : Bool) (word : Word) (es : List Event) :
    InResetState { State.reset with ibuf := mem, draws := d, rstN := pin, rdata := word, events := es } where
  status := rfl
  statusWord := by
    show Status.reset.toWord = 0
    decide
  cmdLatch := rfl
  keyLen := rfl
  ivLen := rfl
  inLen := rfl
  outLen := rfl
  doneIe := rfl
  key := getElem_replicate_zero rfl
  iv := getElem_replicate_zero rfl
  obuf _ := rfl
  irq := rfl

/-- A hardware reset, whatever level the pin then takes. -/
theorem inResetState_hardReset (level : Bool) (s : State) : InResetState { s.hardReset with rstN := level } :=
  inResetState_reset_with _ _ level _ _

theorem inResetState_softReset (s : State) : InResetState s.softReset := inResetState_reset_with _ _ _ _ _

/-! ### The pin -/

theorem setResetPin_false (s : State) : s.setResetPin false = { s.hardReset with rstN := false } := rfl

/-- A pin that was at 0 resets at either level. -/
theorem setResetPin_of_held {s : State} (level : Bool) (h : s.rstN = false) :
    s.setResetPin level = { s.hardReset with rstN := level } := by
  rcases State.setResetPin_cases level s with ⟨_, hr, _⟩ | hp
  · exact absurd (h.symm.trans hr) Bool.false_ne_true
  · exact hp

/-! ### The other inputs while the engine is held in reset -/

theorem step_of_hostWrite_held {s : State} {a : WordAddr} {w : Word} {rest : List Event}
    (h : s.events = .hostWrite a w :: rest) (hr : s.rstN = false) : step s = .next { s with events := rest } := by
  simp [step, h, State.handle, State.writeEvent, hr]

/-- U9: the word is a fresh draw at every address. -/
theorem step_of_hostRead_held {s : State} {a : WordAddr} {rest : List Event}
    (h : s.events = .hostRead a :: rest) (hr : s.rstN = false) :
    step s = .next (State.readFree { s with events := rest }) := by
  simp [step, h, State.handle, State.readEvent, hr]

/-- No command completes (R232), whatever BUSY is. -/
theorem step_of_sequencer_held {s : State} {rest : List Event} (h : s.events = .sequencer :: rest)
    (hr : s.rstN = false) : step s = .next { s with events := rest } := by
  simp [step, h, State.handle, State.sequencerStep, State.completionEnabled, hr]

/-! ### The obligations -/

/-- Settles O28: each input while the engine is held, and the values of `State.hardReset` at the pin's return. -/
theorem hardwareReset : Obligations.HardwareReset := by
  refine ⟨fun s rest he => ?_, fun s a w rest hr he => step_of_hostWrite_held he hr, fun s a rest hr he => ?_,
    fun s rest hr he => step_of_sequencer_held he hr, fun s rest hr he => ?_⟩
  · exact ⟨_, step_of_resetPin he, by rw [setResetPin_false], by rw [setResetPin_false, State.hardReset_events]⟩
  · exact ⟨_, step_of_hostRead_held he hr, rfl, rfl⟩
  · have hstep := step_of_resetPin he
    rw [setResetPin_of_held (s := { s with events := rest }) true hr] at hstep
    exact ⟨_, hstep, rfl, rfl, inResetState_hardReset true _, fun _ => rfl⟩

/-- Settles O29: a CTRL write with SRST is `State.softReset` (R22), which keeps IBUF's bytes and its draw. -/
theorem softReset : Obligations.SoftReset := by
  intro s w rest h hw
  have hstep : step s = .next (State.softReset { s with events := rest }) := (controlActions.2 s w rest h).1 hw
  exact ⟨_, hstep, inResetState_softReset _, h.1, rfl, fun _ => ⟨rfl, rfl⟩⟩

end Sys2Proof.Proofs
end

section
/-! The machine's invariant over every step: the completions, the host's writes and the resets each keep it
(10_state.md R23, R28, 20_memory.md R65, 70_reset_and_hazards.md R230); and what a completion makes of STATUS. -/

namespace Sys2Proof.Proofs

open Sys2Proof.Machine Sys2Proof.Spec

/-! ### STATUS -/

theorem consistent_reset : Status.reset.Consistent where
  busy_clears := nofun
  err_iff := iff_of_false Bool.false_ne_true (not_not.mpr rfl)
  valid_no_err := nofun
  code_used := by decide

theorem consistent_accept (f : Status) (op : BitVec 4) : (f.accept op).Consistent where
  busy_clears _ := ⟨rfl, rfl, rfl, rfl⟩
  err_iff := iff_of_false Bool.false_ne_true (not_not.mpr rfl)
  valid_no_err := nofun
  code_used := by simp

section
variable {f : Status}

theorem err_of_busy (h : f.Consistent) (hb : f.busy = true) : f.err = false := by
  obtain ⟨_, herr, _, _⟩ := h.busy_clears hb
  exact herr

theorem outValid_of_busy (h : f.Consistent) (hb : f.busy = true) : f.outValid = false := by
  obtain ⟨_, _, hvalid, _⟩ := h.busy_clears hb
  exact hvalid

/-- A running command that succeeds: acceptance had cleared ERR and ERRCODE (R100). -/
theorem consistent_succeed (h : f.Consistent) (hb : f.busy = true) : f.succeed.Consistent where
  busy_clears := nofun
  err_iff := h.err_iff
  valid_no_err _ := err_of_busy (f := f) h hb
  code_used := h.code_used

/-- A running command that fails: acceptance had cleared OUT_VALID (R100). -/
theorem consistent_fail (h : f.Consistent) (hb : f.busy = true) (e : ErrorKind) : (f.fail e).Consistent where
  busy_clears := nofun
  err_iff := iff_of_true rfl e.code_ne_zero
  valid_no_err hv := absurd ((outValid_of_busy h hb).symm.trans hv) Bool.false_ne_true
  code_used := e.code_lt

/-- No invariant of R23 speaks of IGNORED, and a DONE that is cleared contradicts none. -/
theorem consistent_of_done_ignored (h : f.Consistent) (done ignored : Bool) (hd : done = true → f.done = true) :
    Status.Consistent { f with done := done, ignored := ignored } where
  busy_clears hb := by
    obtain ⟨hdone, hrest⟩ := h.busy_clears hb
    refine ⟨?_, hrest⟩
    rw [← Bool.not_eq_true]
    exact fun ht => absurd (hdone.symm.trans (hd ht)) Bool.false_ne_true
  err_iff := h.err_iff
  valid_no_err := h.valid_no_err
  code_used := h.code_used

end

/-! ### What the invariant reads -/

/-- What the invariant asks of an engine held in reset holds of one that is not. -/
theorem of_not_held {s : State} {p : Prop} (hr : s.rstN = true) (h0 : s.rstN = false) : p :=
  absurd (h0.symm.trans hr) Bool.false_ne_true

/-- The invariant reads no operand but IBUF, of which it asks the size, and none of what the model adds to the
registers but the pin. -/
theorem inv_of_operands {s : State} (h : s.Inv) {mem : Memory} (hi : mem.Fits Config.ibufSize) {keyLen ivLen : Byte}
    {inLen rdata : Word} {key : Key} {iv : Block} {draws : Draws} {events : List Event} :
    State.Inv { s with
      keyLen := keyLen, ivLen := ivLen, inLen := inLen, key := key, iv := iv, ibuf := mem, draws := draws,
      rdata := rdata, events := events } :=
  { h with ibuf := hi }

theorem inv_withEvents {s : State} (h : s.Inv) (rest : List Event) : State.Inv { s with events := rest } :=
  inv_of_operands h h.ibuf

/-- An engine with no output: OBUF holds nothing, and OUT_LEN is 0. -/
theorem inv_of_noOutput {s : State} (hst : s.status.Consistent) (hop : s.status.lastOp = opField s.cmdLatch)
    (hi : s.ibuf.Fits Config.ibufSize) (hobuf : s.obuf = []) (hv : s.status.outValid = false) (hlen : s.outLen = 0)
    (hr : s.rstN = false → s.status = Status.reset ∧ s.doneIe = false) : s.Inv where
  status := hst
  lastOp := hop
  ibuf := hi
  obuf := hobuf ▸ Memory.fits_nil _
  output n := by simp [hobuf, hv]
  noOutput _ := hlen
  outFits := by simp [hlen]
  heldInReset := hr

/-! ### Resets -/

theorem inv_hardReset (level : Bool) (s : State) : State.Inv { s.hardReset with rstN := level } :=
  inv_of_noOutput consistent_reset rfl (Memory.fits_nil _) rfl rfl rfl fun _ => ⟨rfl, rfl⟩

theorem inv_setResetPin {s : State} (h : s.Inv) (level : Bool) : (s.setResetPin level).Inv := by
  rcases State.setResetPin_cases level s with ⟨_, _, hp⟩ | hp <;> rw [hp]
  · exact h
  · exact inv_hardReset level s

theorem inv_softReset {s : State} (h : s.Inv) : s.softReset.Inv :=
  inv_of_noOutput consistent_reset rfl h.ibuf rfl rfl rfl fun _ => ⟨rfl, rfl⟩

/-! ### Host accesses -/

section
variable {s : State}

theorem inv_accept (h : s.Inv) (hr : s.rstN = true) (w : Word) : (s.accept w).Inv :=
  inv_of_noOutput (consistent_accept _ _) rfl h.ibuf rfl rfl rfl (of_not_held hr)

/-- DONE cleared or kept, and IGNORED at any value, out of reset (R22, R35). -/
theorem inv_of_done_ignored (h : s.Inv) (hr : s.rstN = true) (done ignored : Bool)
    (hd : done = true → s.status.done = true) :
    State.Inv { s with status := { s.status with done := done, ignored := ignored } } :=
  { h with
    status := consistent_of_done_ignored h.status done ignored hd
    heldInReset := of_not_held hr }

theorem inv_writeCtrl (h : s.Inv) (hr : s.rstN = true) (w : Word) : (s.writeCtrl w).Inv := by
  rcases State.writeCtrl_cases w s with ⟨_, hc⟩ | ⟨_, hc⟩ <;> rw [hc]
  · exact inv_softReset h
  · exact inv_of_done_ignored h hr _ _ fun hd => (Bool.and_eq_true_iff.mp hd).1

theorem inv_doneIe (h : s.Inv) (hr : s.rstN = true) (b : Bool) : State.Inv { s with doneIe := b } :=
  { h with heldInReset := of_not_held hr }

theorem inv_hostWrite (h : s.Inv) (hr : s.rstN = true) (a : WordAddr) (w : Word) : (s.hostWrite a w).Inv := by
  rcases State.hostWrite_cases a w s with ⟨_, _, hw⟩ | ⟨_, hw⟩ | ⟨_, _, hw⟩ | ⟨_, _, hw⟩ | ⟨_, _, hw⟩ | ⟨_, _, hw⟩
    | ⟨_, hw⟩ | ⟨_, _, _, hw⟩ | ⟨_, _, _, hw⟩ | ⟨_, m, hd, hw⟩ | hw <;> rw [hw]
  · exact inv_of_done_ignored h hr s.status.done true id
  · exact inv_writeCtrl h hr w
  · exact inv_accept h hr w
  · exact inv_of_operands h h.ibuf
  · exact inv_of_operands h h.ibuf
  · exact inv_of_operands h h.ibuf
  · exact inv_doneIe h hr _
  · exact inv_of_operands h h.ibuf
  · exact inv_of_operands h h.ibuf
  · exact inv_of_operands h (Memory.fits_writeWord m w h.ibuf (ibuf_word_below hd))
  · exact h

theorem inv_hostRead (h : s.Inv) (a : WordAddr) : (s.hostRead a).Inv := by
  rcases State.hostRead_cases a s with ⟨_, _, hr⟩ | ⟨_, hr⟩ <;> rw [hr] <;> exact inv_of_operands h h.ibuf

/-! ### Completions -/

theorem inv_fail (h : s.Inv) (hr : s.rstN = true) (hb : s.status.busy = true) (e : ErrorKind) : (s.fail e).Inv :=
  inv_of_noOutput (consistent_fail h.status hb e) h.lastOp h.ibuf rfl (outValid_of_busy (f := s.status) h.status hb)
    (outLen_of_busy (s := s) h hb) (of_not_held hr)

/-- A success leaves exactly the bytes of its output in OBUF, and OUT_LEN holds their number (R65, R101). -/
theorem inv_succeed (h : s.Inv) (hr : s.rstN = true) (hb : s.status.busy = true) {o : Output}
    (hfits : o.out.length ≤ Config.obufSize) : (s.succeed o).Inv := by
  have hlen : (s.succeed o).outLen.toNat = o.out.length := (State.succeeded_succeed o s hfits).outLen
  exact {
    status := consistent_succeed h.status hb
    lastOp := h.lastOp
    ibuf := h.ibuf
    obuf := Memory.fits_ofBytes hfits
    output := fun n => by rw [hlen]; simp [Memory.read?_ofBytes]
    noOutput := nofun
    outFits := hlen ▸ hfits
    heldInReset := of_not_held hr }

/-- Every command fails, or succeeds with an output that fits OBUF (R101, R207). -/
theorem runCommand_fits (s : State) :
    (∃ e, s.runCommand = .next (s.fail e))
    ∨ ∃ o : Output, s.runCommand = .next (s.succeed o) ∧ o.out.length ≤ Config.obufSize := by
  rcases runCommand_cases_of_word s with ⟨_, hrun⟩ | ⟨_, hrun⟩ | ⟨_, i, r, _, hrun, hr⟩
  · exact .inl ⟨_, hrun⟩
  · exact .inl ⟨_, hrun⟩
  · rcases State.finish_cases _ r s with ⟨e, _, hf⟩ | ⟨e, _, _, hf⟩ | ⟨o, hp, rfl, hf⟩
    · exact .inl ⟨e, hf ▸ hrun⟩
    · exact .inl ⟨e, hf ▸ hrun⟩
    · cases hr hp with
      | ok _ hlen =>
        obtain ⟨_, _, hin, _, _⟩ := (State.precheck_eq_none _ s).mp hp
        have hsize := Config.obufSize_eq
        rw [State.length_input] at hlen
        exact .inr ⟨o, hf ▸ hrun, by omega⟩

theorem inv_runCommand {t : State} (h : s.Inv) (hr : s.rstN = true) (hb : s.status.busy = true)
    (ht : s.runCommand = .next t) : t.Inv := by
  rcases runCommand_fits s with ⟨e, hrun⟩ | ⟨o, hrun, hfits⟩ <;> cases hrun.symm.trans ht
  · exact inv_fail h hr hb e
  · exact inv_succeed h hr hb hfits

end

/-! ### The obligations -/

/-- Settles O11: what each input can do, by `step_cases`, keeps the invariant. -/
theorem stepKeepsConsistency : Obligations.StepKeepsConsistency := by
  intro s t h hstep
  rcases step_cases hstep with ⟨_, rfl⟩ | ⟨_, hr, hb, hrun⟩ | ⟨a, w, rest, _, hr, rfl⟩ | ⟨_, _, rest, _, _, rfl⟩
    | ⟨a, rest, _, _, rfl⟩ | ⟨_, rest, _, _, rfl⟩ | ⟨rest, _, _, rfl⟩ | ⟨rest, _, hr, hb, hrun⟩ | ⟨level, rest, _, rfl⟩
  · exact h
  · exact inv_runCommand h hr hb hrun
  · exact inv_hostWrite (inv_withEvents h rest) hr a w
  · exact inv_withEvents h rest
  · exact inv_hostRead (inv_withEvents h rest) a
  · exact inv_of_operands h h.ibuf
  · exact inv_withEvents h rest
  · exact inv_runCommand (inv_withEvents h rest) hr hb hrun
  · exact inv_setResetPin (inv_withEvents h rest) level

/-- Settles O10: the reset state has the values of R48's table, and no output. -/
theorem resetStateIsConsistent : Obligations.ResetStateIsConsistent :=
  ⟨inResetState_reset_with _ _ _ _ _, fun _ => rfl, rfl, rfl,
    inv_of_noOutput consistent_reset rfl (Memory.fits_nil _) rfl rfl rfl nofun⟩

/-- Settles O8: acceptance had cleared ERR, ERRCODE and OUT_VALID, and each completion sets its own of them. -/
theorem completionEndsTheCommand : Obligations.CompletionEndsTheCommand := by
  intro s rest h hnext
  have ⟨_, hb, _⟩ := hnext
  obtain ⟨_, herr, hvalid, hcode⟩ := h.status.busy_clears hb
  obtain ⟨t, ht, ⟨e, rfl⟩ | ⟨o, rfl⟩⟩ := isFinish_of_completionNext hnext
  · exact ⟨_, ht, rfl, rfl, rfl, by simp [hvalid], by simp, rfl, rfl, rfl⟩
  · exact ⟨_, ht, rfl, rfl, rfl, by simp [herr], by simp [herr, hcode], rfl, rfl, rfl⟩

end Sys2Proof.Proofs
end

section
/-! The decoder and the encoder as inverses of each other: the fields of an assembled word, and each family of commands
by its OP (30_encoding.md R90 to R97). -/

namespace Sys2Proof.Proofs

open Sys2Proof.Machine Sys2Proof.Spec

/-! ### The decoder by OP -/

section
variable {w : Word} (hr : reservedField w = 0)
include hr

theorem decode_encrypt (ho : opField w = 1) :
    decode w = .ok (encryptCommand (modeField w) (IvSrc.ofField (ivsrcField w))) := by simp [decode, hr, ho]

theorem decode_decrypt (ho : opField w = 2) : decode w = moded w (decryptCommand (modeField w)) := by
  simp [decode, hr, ho]

theorem decode_xformFwd (ho : opField w = 3) : decode w = moded w (xformFwdCommand (modeField w)) := by
  simp [decode, hr, ho]

theorem decode_xformInv (ho : opField w = 4) : decode w = moded w (xformInvCommand (modeField w)) := by
  simp [decode, hr, ho]

theorem decode_pad (ho : opField w = 5) : decode w = modeless w .padData := by simp [decode, hr, ho]

theorem decode_unpad (ho : opField w = 6) : decode w = modeless w .unpadData := by simp [decode, hr, ho]

theorem decode_encodeContainer (ho : opField w = 7) : decode w = modeless w .encodeContainer := by
  simp [decode, hr, ho]

theorem decode_decodeContainer (ho : opField w = 8) : decode w = modeless w .decodeContainer := by
  simp [decode, hr, ho]

end

/-! ### Decoding an assembled word -/

/-- The fields of the word that `commandWord` assembles are the ones it was given (R90). -/
theorem fields_commandWord (op : BitVec 4) (mode : BitVec 3) (ivsrc : BitVec 1) :
    reservedField (commandWord op mode ivsrc) = 0 ∧ opField (commandWord op mode ivsrc) = op
      ∧ modeField (commandWord op mode ivsrc) = mode ∧ ivsrcField (commandWord op mode ivsrc) = ivsrc := by
  revert op mode ivsrc
  decide

theorem ivSrc_ofField_toField (src : IvSrc) : IvSrc.ofField src.toField = src := by
  cases src <;> rfl

theorem decode_encryptWord (m : BitVec 3) (src : IvSrc) :
    decode (commandWord 1 m src.toField) = .ok (encryptCommand m src) := by
  obtain ⟨hr, ho, hm, hs⟩ := fields_commandWord 1 m src.toField
  rw [decode_encrypt hr ho, hm, hs, ivSrc_ofField_toField]

theorem decode_decryptWord (m : BitVec 3) : decode (commandWord 2 m 0) = .ok (decryptCommand m) := by
  obtain ⟨hr, ho, hm, hs⟩ := fields_commandWord 2 m 0
  rw [decode_decrypt hr ho, moded, if_pos hs, hm]

theorem decode_xformFwdWord (m : BitVec 3) : decode (commandWord 3 m 0) = .ok (xformFwdCommand m) := by
  obtain ⟨hr, ho, hm, hs⟩ := fields_commandWord 3 m 0
  rw [decode_xformFwd hr ho, moded, if_pos hs, hm]

theorem decode_xformInvWord (m : BitVec 3) : decode (commandWord 4 m 0) = .ok (xformInvCommand m) := by
  obtain ⟨hr, ho, hm, hs⟩ := fields_commandWord 4 m 0
  rw [decode_xformInv hr ho, moded, if_pos hs, hm]

/-! ### MODE 4 to 7 -/

theorem mode_ofField_eq_none {m : BitVec 3} (h : selectsNoMode m = true) : Mode.ofField m = none := by
  revert m
  decide

theorem encryptCommand_noMode {m : BitVec 3} (h : selectsNoMode m = true) (src : IvSrc) :
    encryptCommand m src = .encryptNoMode m src := by
  simp [encryptCommand, mode_ofField_eq_none h]

theorem decryptCommand_noMode {m : BitVec 3} (h : selectsNoMode m = true) : decryptCommand m = .decryptNoMode m := by
  simp [decryptCommand, mode_ofField_eq_none h]

theorem xformFwdCommand_noMode {m : BitVec 3} (h : selectsNoMode m = true) :
    xformFwdCommand m = .xformFwdNoMode m := by
  simp [xformFwdCommand, mode_ofField_eq_none h]

theorem xformInvCommand_noMode {m : BitVec 3} (h : selectsNoMode m = true) :
    xformInvCommand m = .xformInvNoMode m := by
  simp [xformInvCommand, mode_ofField_eq_none h]

/-- Settles O1: each instruction is its family's command at the MODE and IV source of its word. -/
theorem decodeEncodeRoundTrip : Obligations.DecodeEncodeRoundTrip := by
  intro i hi
  cases i
  case encryptCbcRng | encryptCfbRng | encryptOfbRng | encryptCtrRng => exact decode_encryptWord _ .rng
  case encryptCbcReg | encryptCfbReg | encryptOfbReg | encryptCtrReg => exact decode_encryptWord _ .reg
  case decryptCbc | decryptCfb | decryptOfb | decryptCtr => exact decode_decryptWord _
  case xformFwdCbc | xformFwdCfb | xformFwdOfb | xformFwdCtr => exact decode_xformFwdWord _
  case xformInvCbc | xformInvCfb | xformInvOfb | xformInvCtr => exact decode_xformInvWord _
  case padData | unpadData | encodeContainer | decodeContainer => rfl
  case encryptNoMode m src => exact (decode_encryptWord m src).trans (congrArg _ (encryptCommand_noMode hi src))
  case decryptNoMode m => exact (decode_decryptWord m).trans (congrArg _ (decryptCommand_noMode hi))
  case xformFwdNoMode m => exact (decode_xformFwdWord m).trans (congrArg _ (xformFwdCommand_noMode hi))
  case xformInvNoMode m => exact (decode_xformInvWord m).trans (congrArg _ (xformInvCommand_noMode hi))

/-! ### Encoding a decoded word, by its OP -/

theorem encode_encryptCommand (m : BitVec 3) (src : IvSrc) :
    encode (encryptCommand m src) = commandWord 1 m src.toField ∧ WellFormed (encryptCommand m src) := by
  cases src <;> revert m <;> decide

theorem encode_decryptCommand (m : BitVec 3) :
    encode (decryptCommand m) = commandWord 2 m 0 ∧ WellFormed (decryptCommand m) := by
  revert m
  decide

theorem encode_xformFwdCommand (m : BitVec 3) :
    encode (xformFwdCommand m) = commandWord 3 m 0 ∧ WellFormed (xformFwdCommand m) := by
  revert m
  decide

theorem encode_xformInvCommand (m : BitVec 3) :
    encode (xformInvCommand m) = commandWord 4 m 0 ∧ WellFormed (xformInvCommand m) := by
  revert m
  decide

theorem ivSrc_toField_ofField (b : BitVec 1) : (IvSrc.ofField b).toField = b := by
  revert b
  decide

/-- What a moded command is decoded from: IVSRC is 0, so its word is assembled from OP and MODE (R93). -/
theorem encode_of_moded {w : Word} {i j : Instr} {op : BitVec 4} (hr : reservedField w = 0) (ho : opField w = op)
    (hj : encode j = commandWord op (modeField w) 0 ∧ WellFormed j) (h : moded w j = .ok i) :
    encode i = w ∧ WellFormed i := by
  obtain ⟨henc, hwf⟩ := hj
  unfold moded at h
  split at h
  next hs =>
    cases h
    have hw := commandWord_fields hr
    rw [ho, hs] at hw
    exact ⟨henc.trans hw, hwf⟩
  next => cases h

/-- What a modeless command is decoded from: IVSRC and MODE are 0, so its word is its OP (R92, R93). -/
theorem encode_of_modeless {w : Word} {i j : Instr} {op : BitVec 4} (hr : reservedField w = 0) (ho : opField w = op)
    (hj : encode j = commandWord op 0 0 ∧ WellFormed j) (h : modeless w j = .ok i) :
    encode i = w ∧ WellFormed i := by
  unfold modeless at h
  split at h
  next hs =>
    split at h
    next hm => exact encode_of_moded hr ho (hm ▸ hj) (h ▸ if_pos hs)
    next => cases h
  next => cases h

/-- Settles O2: OP by OP, the word is assembled from its own fields. -/
theorem encodeOfDecodedWord : Obligations.EncodeOfDecodedWord := by
  intro w i h
  by_cases hr : reservedField w = 0
  case neg => rw [decode_reserved w hr] at h; cases h
  by_cases ho : (opField w).toNat ∈ [1, 2, 3, 4, 5, 6, 7, 8]
  case neg => rw [decode_unassigned hr ho] at h; cases h
  rcases (mem_assigned_iff _).mp ho with ho | ho | ho | ho | ho | ho | ho | ho
  · rw [decode_encrypt hr ho] at h
    cases h
    obtain ⟨henc, hwf⟩ := encode_encryptCommand (modeField w) (IvSrc.ofField (ivsrcField w))
    have hw := commandWord_fields hr
    rw [ho] at hw
    rw [ivSrc_toField_ofField, hw] at henc
    exact ⟨henc, hwf⟩
  · exact encode_of_moded hr ho (encode_decryptCommand _) (decode_decrypt hr ho ▸ h)
  · exact encode_of_moded hr ho (encode_xformFwdCommand _) (decode_xformFwd hr ho ▸ h)
  · exact encode_of_moded hr ho (encode_xformInvCommand _) (decode_xformInv hr ho ▸ h)
  · exact encode_of_modeless hr ho ⟨rfl, rfl⟩ (decode_pad hr ho ▸ h)
  · exact encode_of_modeless hr ho ⟨rfl, rfl⟩ (decode_unpad hr ho ▸ h)
  · exact encode_of_modeless hr ho ⟨rfl, rfl⟩ (decode_encodeContainer hr ho ▸ h)
  · exact encode_of_modeless hr ho ⟨rfl, rfl⟩ (decode_decodeContainer hr ho ▸ h)

/-- Settles O4: the decoder run on the eleven words. -/
theorem tableWordsDecode : Obligations.TableWordsDecode := by
  and_intros <;> rfl

end Sys2Proof.Proofs
end

section
/-! The step: it always answers a next state (60_exceptions.md R210), a completion step runs the command of CMDLATCH
(30_encoding.md R101, R102), and what can lower BUSY (60_exceptions.md R213). -/

namespace Sys2Proof.Proofs

open Sys2Proof.Machine Sys2Proof.Spec

/-! ### Every step answers -/

theorem sequencerStep_next (s : State) : ∃ t, s.sequencerStep = .next t := by
  rcases State.sequencerStep_cases s with ⟨_, _, h⟩ | ⟨_, h⟩ <;> rw [h]
  · obtain ⟨t, ht, _⟩ := State.runCommand_cases s
    exact ⟨t, ht⟩
  · exact ⟨s, rfl⟩

/-- With no input pending a step holds the state, or is the completion that the ports have answered (R250). -/
theorem step_of_no_events {s : State} (h : s.events = []) :
    step s = .next s ∨ (s.rstN = true ∧ s.status.busy = true ∧ step s = s.runCommand) := by
  simp only [step, h, State.quiet, State.completionEnabled, Bool.and_eq_true]
  split
  next hc =>
    obtain ⟨⟨hr, hb⟩, _⟩ := hc
    exact .inr ⟨hr, hb, rfl⟩
  next => exact .inl rfl

theorem step_next (s : State) : ∃ t, step s = .next t := by
  cases he : s.events with
  | nil =>
    rcases step_of_no_events he with h | ⟨_, _, h⟩ <;> rw [h]
    · exact ⟨s, rfl⟩
    · obtain ⟨t, ht, _⟩ := State.runCommand_cases s
      exact ⟨t, ht⟩
  | cons e rest =>
    simp only [step, he]
    cases e with
    | hostWrite a w => exact ⟨_, rfl⟩
    | hostRead a => exact ⟨_, rfl⟩
    | sequencer => exact sequencerStep_next _
    | resetPin level => exact ⟨_, rfl⟩

/-- Settles O7: each input has an answer. -/
theorem everyStepAnswersNext : Obligations.EveryStepAnswersNext := step_next

/-- Settles O9: the two cases of `step_of_no_events`, of which an idle or held engine has the first. -/
theorem quietStepHoldsOrCompletes : Obligations.QuietStepHoldsOrCompletes := by
  intro s he
  rcases step_of_no_events he with h | ⟨hr, hb, h⟩
  · exact ⟨fun _ => h, .inl h⟩
  · refine ⟨fun hi => ?_, .inr h⟩
    rw [hr, hb] at hi
    exact absurd hi (by decide)

/-! ### The command that a completion step runs -/

theorem runCommand_of_decode {s : State} {i : Instr} (h : decode s.cmdLatch = .ok i) : s.runCommand = exec i s := by
  rw [State.runCommand, State.fetchCommand, h]

/-- Settles O5: the completion step is `State.runCommand`, which decodes CMDLATCH. -/
theorem stepRunsDecodedCommand : Obligations.StepRunsDecodedCommand := by
  intro s rest i h hd
  rw [step_of_completionNext h]
  exact runCommand_of_decode hd

/-- The state in which a placed word is run: accepted, out of reset, with the completion taken off the inputs. -/
def placed (s : State) (w : Word) : State := { s.accept w with rstN := true }

theorem step_withFetchWord (s : State) (nbits w : Nat) :
    step (s.withFetchWord nbits w) = (placed s (tableWord nbits w)).runCommand :=
  step_of_completionNext (s := s.withFetchWord nbits w) ⟨rfl, rfl, rfl⟩

/-- Settles O6: the very next step runs the word in the state `placed`. -/
theorem placedWordIsRunNext : Obligations.PlacedWordIsRunNext := by
  intro s w i hd
  refine ⟨placed s (tableWord 32 w), ?_, rfl, rfl, rfl, rfl, rfl, rfl, rfl, rfl, rfl, rfl, rfl, rfl, rfl, rfl⟩
  rw [step_withFetchWord]
  exact runCommand_of_decode hd

/-! ### What lowers BUSY -/

theorem done_of_runCommand {s t : State} (h : s.runCommand = .next t) : t.status.done = true := by
  obtain ⟨u, hu, hf⟩ := State.runCommand_cases s
  cases hu.symm.trans h
  rcases hf with ⟨e, rfl⟩ | ⟨o, rfl⟩ <;> rfl

/-- A write to CTRL keeps BUSY, or is a soft reset (R22). -/
theorem writeCtrl_busy_or_reset (w : Word) (s : State) :
    (s.writeCtrl w).status.busy = s.status.busy
    ∨ (w.getLsbD 0 = true ∧ (s.writeCtrl w).status.done = false) := by
  rcases State.writeCtrl_cases w s with ⟨hw, hc⟩ | ⟨_, hc⟩
  · exact .inr ⟨hw, writeCtrl_done s (.inl hw)⟩
  · exact .inl (by rw [hc])

/-- A host write to a busy engine leaves it busy, or is a soft reset (R35). -/
theorem hostWrite_of_busy {a : WordAddr} {w : Word} {s : State} (hb : s.status.busy = true) :
    (s.hostWrite a w).status.busy = true
    ∨ (decodeAddr a = .ctrl ∧ w.getLsbD 0 = true ∧ (s.hostWrite a w).status.done = false) := by
  cases hf : (decodeAddr a).busyFiltered with
  | true => exact .inl (by rw [State.hostWrite_filtered w hb hf]; exact hb)
  | false =>
    rw [State.hostWrite_of_not_filtered w s (.inr hf)]
    cases hd : decodeAddr a <;> rw [hd] at hf
    case ctrl => exact (writeCtrl_busy_or_reset w s).imp (·.trans hb) fun h => ⟨rfl, h⟩
    case cmd | keyLen | ivLen | inLen | key | iv | ibuf => cases hf
    case id | status | outLen | irqEn | ibufCap | obufCap | obuf | unbacked => exact .inl hb

/-- Settles O26: of all that a step can do (`step_cases`), only a completion and the two resets lower BUSY. -/
theorem onlyCompletionOrResetEndsACommand : Obligations.OnlyCompletionOrResetEndsACommand := by
  intro s t hstep hb ht
  have hstay {p : Prop} (h : t.status.busy = true) : p := absurd (ht.symm.trans h) Bool.false_ne_true
  rcases step_cases hstep with ⟨_, rfl⟩ | ⟨he, _, _, hrun⟩ | ⟨a, w, rest, he, _, rfl⟩ | ⟨_, _, _, _, _, rfl⟩
    | ⟨a, rest, _, _, rfl⟩ | ⟨_, _, _, _, rfl⟩ | ⟨_, _, _, rfl⟩ | ⟨rest, he, _, _, hrun⟩ | ⟨level, rest, he, rfl⟩
  · exact hstay hb
  · exact .inl ⟨.inl he, done_of_runCommand hrun⟩
  · rcases hostWrite_of_busy (a := a) (w := w) (s := { s with events := rest }) hb with h | ⟨hd, hw, hdone⟩
    · exact hstay h
    · exact .inr ⟨.inr ⟨a, w, by rw [he]; rfl, byteOffset_of_ctrl hd, hw⟩, hdone⟩
  · exact hstay hb
  · exact hstay (by rw [hostRead_status]; exact hb)
  · exact hstay hb
  · exact hstay hb
  · exact .inl ⟨.inr (by rw [he]; rfl), done_of_runCommand hrun⟩
  · rcases State.setResetPin_cases level { s with events := rest } with ⟨_, _, hp⟩ | hp
    · exact hstay (by rw [hp]; exact hb)
    · exact .inr ⟨.inl ⟨level, by rw [he]; rfl⟩, by rw [hp]; rfl⟩

end Sys2Proof.Proofs
end

section
/-! Host reads and the buffers on the port: a read changes nothing but the word read (20_memory.md R61, R70), the word
accesses of IBUF and OBUF (R64, R65), the length registers, and the bits of STATUS (10_state.md R23 to R28). -/

namespace Sys2Proof.Proofs

open Sys2Proof.Machine Sys2Proof.Spec

/-! ### A read changes nothing but the word read -/

/-- Settles O16: a free word while the engine is held, and the two cases of `State.hostRead_cases` while it is not. -/
theorem readsHaveNoSideEffect : Obligations.ReadsHaveNoSideEffect := by
  intro s a rest he
  rcases Bool.eq_false_or_eq_true s.rstN with hr | hr
  · refine ⟨_, step_of_hostRead he hr, ?_⟩
    rcases State.hostRead_cases a { s with events := rest } with ⟨_, _, h⟩ | ⟨_, h⟩ <;> rw [h]
    rfl
  · exact ⟨_, step_of_hostRead_held he hr, rfl⟩

/-! ### The length registers -/

/-- Settles O19: the rules of the port at each register's offset. -/
theorem lengthRegistersStore : Obligations.LengthRegistersStore := by
  intro s w rest hb
  refine ⟨fun h => ?_, fun h => ?_, fun h => step_of_writeNext h decodeAddr_inLen (.inl hb),
    fun h => step_of_readNext h decodeAddr_keyLen (.inl hb), fun h => step_of_readNext h decodeAddr_ivLen (.inl hb),
    fun h => step_of_readNext h decodeAddr_inLen (.inl hb), fun h => step_of_readNext h decodeAddr_outLen (.inl hb),
    fun h => step_of_readNext h decodeAddr_cmd (.inl hb), fun off v hv h => ?_⟩
  · rw [step_of_writeNext h decodeAddr_keyLen (.inl hb), ← BitVec.setWidth_eq_extractLsb' (by decide)]
    rfl
  · rw [step_of_writeNext h decodeAddr_ivLen (.inl hb), ← BitVec.setWidth_eq_extractLsb' (by decide)]
    rfl
  · obtain ⟨_, hread⟩ := ordinaryReads_spec hv
    rw [step_of_readNext h rfl (.inl hb), hread]

/-! ### IBUF and OBUF -/

theorem le32_readTarget_ibuf (s : State) (m : Nat) :
    le32 (s.readTarget (.ibuf m)) = (List.range 4).map fun j => s.ibufByte (4 * m + j) := by
  rw [State.readTarget, le32_laneWord]
  rfl

theorem le32_readTarget_obuf (s : State) (m : Nat) :
    le32 (s.readTarget (.obuf m)) = (List.range 4).map fun j => s.obufByte (4 * m + j) := by
  rw [State.readTarget, le32_laneWord]
  rfl

/-- Settles O22: the rules of the port at an IBUF offset, and `Memory.read?_writeWord` byte by byte. -/
theorem ibufWordAccess : Obligations.IbufWordAccess := by
  intro s m w rest hm
  have hd := decodeAddr_ibuf m hm
  refine ⟨fun hb h => ⟨_, step_of_writeNext h hd (.inl hb), rfl, fun j hj => ?_, fun n hn => ?_⟩,
    fun h => ⟨_, step_of_readNext h hd (.inr rfl), rfl, le32_readTarget_ibuf s m⟩⟩
  · have hin : 4 * m ≤ 4 * m + j ∧ 4 * m + j < 4 * m + 4 := by omega
    simp [State.writeTarget, State.ibufByte, Memory.read?_writeWord, hin, lane]
  · have hout : ¬(4 * m ≤ n ∧ n < 4 * m + 4) := by omega
    simp [State.writeTarget, State.ibufByte, Memory.read?_writeWord, hout]

/-- Everything a host write can do to OBUF: nothing, or leave it without a specified byte at an acceptance or a soft
reset (R65, R231, R242). -/
theorem hostWrite_obuf (a : WordAddr) (w : Word) (s : State) :
    ((s.hostWrite a w).obuf = s.obuf ∧ (s.hostWrite a w).draws.obuf = s.draws.obuf)
    ∨ ((s.status.busy = false ∧ decodeAddr a = .cmd ∨ decodeAddr a = .ctrl ∧ w.getLsbD 0 = true)
        ∧ (s.hostWrite a w).obuf = []) := by
  rcases State.hostWrite_cases a w s with ⟨_, _, h⟩ | ⟨hd, h⟩ | ⟨hb, hd, h⟩ | ⟨_, _, h⟩ | ⟨_, _, h⟩ | ⟨_, _, h⟩ | ⟨_, h⟩
    | ⟨_, _, _, h⟩ | ⟨_, _, _, h⟩ | ⟨_, _, _, h⟩ | h <;> rw [h]
  case inr.inl =>
    rcases State.writeCtrl_cases w s with ⟨hw, hc⟩ | ⟨_, hc⟩ <;> rw [hc]
    · exact .inr ⟨.inr ⟨hd, hw⟩, rfl⟩
    · exact .inl ⟨rfl, rfl⟩
  case inr.inr.inl => exact .inr ⟨.inl ⟨hb, hd⟩, rfl⟩
  all_goals exact .inl ⟨rfl, rfl⟩

/-- Two states with the same specified bytes of OBUF and the same draw of the others show the same OBUF. -/
theorem obuf_bytes_congr {s t : State} (hm : t.obuf = s.obuf) (hd : t.draws.obuf = s.draws.obuf) (n : Nat) :
    t.obufByte n = s.obufByte n ∧ t.obuf.read? n = s.obuf.read? n := by
  rw [State.obufByte, State.obufByte, hm, hd]
  exact ⟨rfl, rfl⟩

/-- Settles O23: the rules of the port at an OBUF offset, `hostWrite_obuf` and the frame of a read. -/
theorem obufWordAccess : Obligations.ObufWordAccess := by
  refine ⟨fun s m rest hm hb h => ?_, fun s t a w rest he ht => ?_, fun s t a rest he ht => ?_⟩
  · exact ⟨_, step_of_readNext h (decodeAddr_obuf m hm) (.inl hb), rfl, le32_readTarget_obuf s m⟩
  · cases hr : s.rstN with
    | false =>
      cases (step_of_hostWrite_held he hr).symm.trans ht
      exact .inl fun n => ⟨rfl, rfl⟩
    | true =>
      cases (step_of_hostWrite he hr).symm.trans ht
      rcases hostWrite_obuf a w { s with events := rest } with ⟨hm, hd⟩ | ⟨hw, hm⟩
      · exact .inl (obuf_bytes_congr (s := s) hm hd)
      · refine .inr ⟨hw.imp (fun ⟨hb, hd⟩ => ⟨byteOffset_of_cmd hd, hb⟩)
          fun ⟨hd, hw⟩ => ⟨byteOffset_of_ctrl hd, hw⟩, ?_⟩
        intro n
        rw [hm, Memory.read?_nil]
  · obtain ⟨u, hu, h⟩ := readsHaveNoSideEffect s a rest he
    cases hu.symm.trans ht
    exact obuf_bytes_congr (s := s) (congrArg State.obuf h :) (congrArg (fun v => v.draws.obuf) h :)

/-! ### STATUS -/

theorem getLsbD_bitWord (b : Bool) (i : Nat) : (bitWord b).getLsbD i = (decide (i = 0) && b) := by
  cases b <;> cases i <;> simp [bitWord]

theorem getElem_bitWord (b : Bool) {i : Nat} (hi : i < 32) : (bitWord b)[i] = (decide (i = 0) && b) := by
  rw [← BitVec.getLsbD_eq_getElem, getLsbD_bitWord]

/-- The flags of the STATUS word (R23). -/
theorem getLsbD_toWord_flags (f : Status) :
    f.toWord.getLsbD 0 = f.busy ∧ f.toWord.getLsbD 1 = f.done ∧ f.toWord.getLsbD 2 = f.err
      ∧ f.toWord.getLsbD 3 = f.outValid ∧ f.toWord.getLsbD 4 = f.ignored := by
  simp [Status.toWord, getElem_bitWord]

/-- The bits of the STATUS word above the flags (R23). -/
theorem getLsbD_toWord_fields (f : Status) {i : Nat} (h5 : 5 ≤ i) (hi : i < 32) :
    f.toWord.getLsbD i =
      if i < 8 then false else if i < 12 then f.errCode.getLsbD (i - 8) else f.lastOp.getLsbD (i - 12) := by
  have hflag : i ≠ 0 ∧ i - 1 ≠ 0 ∧ i - 2 ≠ 0 ∧ i - 3 ≠ 0 ∧ i - 4 ≠ 0 := by omega
  simp only [Status.toWord, BitVec.getLsbD_or, BitVec.getLsbD_shiftLeft, BitVec.getLsbD_setWidth, getLsbD_bitWord,
    hflag, hi]
  by_cases h8 : i < 8
  · simp [h8, show i < 12 by omega]
  by_cases h12 : i < 12
  · simp [h8, h12, show i - 8 < 32 by omega]
  · simp [h8, h12, show i - 12 < 32 by omega, BitVec.getLsbD_of_ge _ _ (show 4 ≤ i - 8 by omega)]

/-- A field of the STATUS word from bit 5 on, bit by bit. -/
theorem extractLsb'_toWord {f : Status} {start len : Nat} {v : BitVec len} (h5 : 5 ≤ start) (hlen : start + len ≤ 32)
    (h : ∀ i, i < len → (if start + i < 8 then false else if start + i < 12 then f.errCode.getLsbD (start + i - 8)
      else f.lastOp.getLsbD (start + i - 12)) = v.getLsbD i) :
    f.toWord.extractLsb' start len = v := by
  refine BitVec.eq_of_getLsbD_eq fun i hi => ?_
  rw [BitVec.getLsbD_extractLsb', getLsbD_toWord_fields f (by omega) (by omega), h i hi, decide_eq_true hi,
    Bool.true_and]

theorem reservedBits_toWord (f : Status) : f.toWord.extractLsb' 5 3 = 0 ∧ f.toWord.extractLsb' 16 16 = 0 := by
  refine ⟨extractLsb'_toWord (by omega) (by omega) fun i hi => ?_,
    extractLsb'_toWord (by omega) (by omega) fun i hi => ?_⟩
  · rw [if_pos (by omega)]
    exact BitVec.getLsbD_zero.symm
  · rw [if_neg (by omega), if_neg (by omega), BitVec.getLsbD_of_ge _ _ (by omega)]
    exact BitVec.getLsbD_zero.symm

theorem errCode_toWord (f : Status) : f.toWord.extractLsb' 8 4 = f.errCode :=
  extractLsb'_toWord (by omega) (by omega) fun i hi => by
    rw [if_neg (by omega), if_pos (by omega), Nat.add_sub_cancel_left]

theorem lastOp_toWord (f : Status) : f.toWord.extractLsb' 12 4 = f.lastOp :=
  extractLsb'_toWord (by omega) (by omega) fun i hi => by
    rw [if_neg (by omega), if_neg (by omega), Nat.add_sub_cancel_left]

/-- Settles O24: the fields of `State.readTarget` at STATUS, which is the word `Status.toWord`. -/
theorem statusWordLayout : Obligations.StatusWordLayout := by
  intro s rest h
  obtain ⟨hbusy, hdone, herr, hvalid, hign⟩ := getLsbD_toWord_flags s.status
  obtain ⟨hlow, hhigh⟩ := reservedBits_toWord s.status
  exact ⟨_, step_of_readNext h decodeAddr_status (.inr rfl), rfl, hbusy, hdone, herr, hvalid, hign, hlow,
    errCode_toWord _, lastOp_toWord _, hhigh⟩

end Sys2Proof.Proofs
end

section
/-! Resets against the running command (70_reset_and_hazards.md R231, R232) and events that coincide, in either order
(60_exceptions.md R216). -/

namespace Sys2Proof.Proofs

open Sys2Proof.Machine Sys2Proof.Spec

/-! ### The inputs over a step -/

theorem hostWrite_events (a : WordAddr) (w : Word) (s : State) : (s.hostWrite a w).events = s.events := by
  rcases State.hostWrite_cases a w s with ⟨_, _, h⟩ | ⟨_, h⟩ | ⟨_, _, h⟩ | ⟨_, _, h⟩ | ⟨_, _, h⟩ | ⟨_, _, h⟩ | ⟨_, h⟩
    | ⟨_, _, _, h⟩ | ⟨_, _, _, h⟩ | ⟨_, _, _, h⟩ | h <;> rw [h]
  case inr.inl => rcases State.writeCtrl_cases w s with ⟨_, hc⟩ | ⟨_, hc⟩ <;> rw [hc]; rfl
  case inr.inr.inl => rfl

theorem hostRead_events (a : WordAddr) (s : State) : (s.hostRead a).events = s.events := by
  rcases State.hostRead_cases a s with ⟨_, _, h⟩ | ⟨_, h⟩ <;> rw [h]
  rfl

theorem setResetPin_events (level : Bool) (s : State) : (s.setResetPin level).events = s.events := by
  rcases State.setResetPin_cases level s with ⟨_, _, h⟩ | h <;> rw [h]
  rfl

theorem runCommand_events {s t : State} (h : s.runCommand = .next t) : t.events = s.events := by
  obtain ⟨u, hu, hf⟩ := State.runCommand_cases s
  cases hu.symm.trans h
  rcases hf with ⟨e, rfl⟩ | ⟨o, rfl⟩ <;> rfl

/-- A step takes the first of the inputs, where there is one. -/
theorem step_events {s t : State} (h : step s = .next t) : t.events = s.events.tail := by
  rcases step_cases h with ⟨he, rfl⟩ | ⟨he, _, _, hrun⟩ | ⟨a, w, rest, he, _, rfl⟩ | ⟨_, _, rest, he, _, rfl⟩
    | ⟨a, rest, he, _, rfl⟩ | ⟨_, rest, he, _, rfl⟩ | ⟨rest, he, _, rfl⟩ | ⟨rest, he, _, _, hrun⟩
    | ⟨level, rest, he, rfl⟩ <;> rw [he, List.tail]
  · exact (runCommand_events hrun).trans he
  · exact hostWrite_events _ _ _
  · exact hostRead_events _ _
  · exact State.readFree_events _
  · exact runCommand_events hrun
  · exact setResetPin_events _ _

/-! ### Single steps -/

theorem run_two {s t u : State} (h₁ : step s = .next t) (h₂ : step t = .next u) :
    Host.Core.run Sys2Proof.core 2 s = .next u := by
  have h₁' : Sys2Proof.core.step s = .next t := h₁
  have h₂' : Sys2Proof.core.step t = .next u := h₂
  simp only [Host.Core.run, h₁', h₂']

/-- Nothing is there to complete on an idle engine (R101). -/
theorem step_of_sequencer_idle {s : State} {rest : List Event} (h : s.events = .sequencer :: rest)
    (hb : s.status.busy = false) : step s = .next { s with events := rest } := by
  simp [step, h, State.handle, State.sequencerStep, State.completionEnabled, hb]

theorem step_of_softReset {s : State} {c : Word} {rest : List Event} (h : WriteNext s 0x004 c rest)
    (hc : c.getLsbD 0 = true) : step s = .next (State.softReset { s with events := rest }) :=
  (controlActions.2 s c rest h).1 hc

/-- Settles O30: the soft reset leaves the engine idle, so the completion finds nothing, and CMD accepts. -/
theorem softResetAbandonsTheCommand : Obligations.SoftResetAbandonsTheCommand := by
  intro s c w rest hr hc he
  have hreset := inResetState_softReset { s with events := .sequencer :: .hostWrite (wordAddr 0x00C) w :: rest }
  exact ⟨_, _, _, step_of_softReset ⟨hr, he⟩ hc, step_of_sequencer_idle rfl rfl,
    step_of_writeNext ⟨hr, rfl⟩ decodeAddr_cmd (.inl rfl), rfl, rfl, rfl, hreset.irq, rfl, rfl, rfl⟩

/-! ### A reset or an ACK with a completion -/

/-- Two states with the same specified bytes of IBUF and the same draw of the others show the same IBUF. -/
theorem ibufByte_congr {s t : State} (hm : t.ibuf = s.ibuf) (hd : t.draws.ibuf = s.draws.ibuf) (n : Nat) :
    t.ibufByte n = s.ibufByte n := by
  rw [State.ibufByte, State.ibufByte, hm, hd]

/-- The soft reset before the completion, which then finds nothing to do. -/
theorem run_softReset_sequencer {s : State} {c : Word} {rest : List Event}
    (h : WriteNext s 0x004 c (.sequencer :: rest)) (hc : c.getLsbD 0 = true) :
    Host.Core.run Sys2Proof.core 2 s = .next (State.softReset { s with events := rest }) :=
  run_two (step_of_softReset h hc) (step_of_sequencer_idle rfl rfl)

/-- A completion leaves the input after it the next one. -/
theorem writeNext_of_isFinish {s v : State} {off : Nat} {c : Word} {rest : List Event}
    (h : CompletionNext s (.hostWrite (wordAddr off) c :: rest))
    (hf : IsFinish v { s with events := .hostWrite (wordAddr off) c :: rest }) : WriteNext v off c rest := by
  obtain ⟨hr, _, _⟩ := h
  rcases hf with ⟨e, rfl⟩ | ⟨o, rfl⟩ <;> exact ⟨hr, rfl⟩

/-- A soft reset takes back all of a completion but what it did to the draw counters (R231). -/
theorem softReset_of_isFinish {s v : State} {es : List Event} (hf : IsFinish v { s with events := es })
    (rest : List Event) :
    State.softReset { v with events := rest }
        = { State.softReset { s with events := rest } with draws := v.softReset.draws }
      ∧ v.softReset.draws.ibuf = s.draws.ibuf := by
  rcases hf with ⟨e, rfl⟩ | ⟨o, rfl⟩ <;> exact ⟨rfl, rfl⟩

/-- The soft reset after the completion, of which only the draw counters are left. -/
theorem run_sequencer_softReset {s : State} {c : Word} {rest : List Event}
    (h : CompletionNext s (.hostWrite (wordAddr 0x004) c :: rest)) (hc : c.getLsbD 0 = true) :
    ∃ d : Draws, d.ibuf = s.draws.ibuf
      ∧ Host.Core.run Sys2Proof.core 2 s
        = .next { State.softReset { s with events := rest } with draws := d } := by
  obtain ⟨v, hv, hf⟩ := isFinish_of_completionNext h
  obtain ⟨hreset, hd⟩ := softReset_of_isFinish hf rest
  exact ⟨_, hd, hreset ▸ run_two hv (step_of_softReset (writeNext_of_isFinish h hf) hc)⟩

/-- An ACK before the completion, which raises DONE again. -/
theorem run_ack_sequencer {s : State} {c : Word} {rest : List Event}
    (h : WriteNext s 0x004 c (.sequencer :: rest)) (hb : s.status.busy = true) (h0 : c.getLsbD 0 = false) :
    ∃ t, Host.Core.run Sys2Proof.core 2 s = .next t ∧ t.status.done = true := by
  obtain ⟨v, hv, hnext⟩ : ∃ v, step s = .next v ∧ CompletionNext v rest :=
    ⟨_, (controlActions.2 s c _ h).2 h0, h.1, hb, rfl⟩
  obtain ⟨t, ht, _⟩ := State.runCommand_cases { v with events := rest }
  exact ⟨t, run_two hv ((step_of_completionNext hnext).trans ht), done_of_runCommand ht⟩

/-- An ACK after the completion. -/
theorem run_sequencer_ack {s : State} {c : Word} {rest : List Event}
    (h : CompletionNext s (.hostWrite (wordAddr 0x004) c :: rest)) (h1 : c.getLsbD 1 = true) :
    ∃ t, Host.Core.run Sys2Proof.core 2 s = .next t ∧ t.status.done = false := by
  obtain ⟨v, hv, hf⟩ := isFinish_of_completionNext h
  have hstep := step_of_writeNext (writeNext_of_isFinish h hf) decodeAddr_ctrl (.inr rfl)
  exact ⟨_, run_two hv hstep, writeCtrl_done _ (.inr h1)⟩

/-! ### A hardware reset with any input -/

/-- The registers of R48's table are none of the inputs, the host's last read and the draws. -/
theorem inResetState_with {s : State} (h : InResetState s) (es : List Event) (word : Word) (d : Draws) :
    InResetState { s with events := es, rdata := word, draws := d } :=
  { h with }

/-- An engine held in reset keeps the reset values at any input (R230). -/
theorem inResetState_of_held {s t : State} {e : Event} {rest : List Event} (h : InResetState s) (hr : s.rstN = false)
    (he : s.events = e :: rest) (ht : step s = .next t) : InResetState t := by
  cases e with
  | hostWrite a w => cases (step_of_hostWrite_held he hr).symm.trans ht; exact inResetState_with h _ _ _
  | hostRead a => cases (step_of_hostRead_held he hr).symm.trans ht; exact inResetState_with h _ _ _
  | sequencer => cases (step_of_sequencer_held he hr).symm.trans ht; exact inResetState_with h _ _ _
  | resetPin level =>
    cases (step_of_resetPin he).symm.trans ht
    rw [setResetPin_of_held (s := { s with events := rest }) level hr]
    exact inResetState_hardReset level _

/-- The fall of the pin takes the reset values, whatever the state. -/
theorem step_of_pinFall {s : State} {rest : List Event} (he : s.events = .resetPin false :: rest) :
    ∃ t, step s = .next t ∧ t.rstN = false ∧ t.events = rest ∧ InResetState t :=
  ⟨_, step_of_resetPin he, rfl, rfl, inResetState_hardReset false _⟩

/-- The fall of the pin before any other input, and after it. -/
theorem run_pinFall (s : State) (e : Event) (rest : List Event) :
    ∃ t u, Host.Core.run Sys2Proof.core 2 { s with events := .resetPin false :: e :: rest } = .next t
      ∧ Host.Core.run Sys2Proof.core 2 { s with events := e :: .resetPin false :: rest } = .next u
      ∧ InResetState t ∧ InResetState u ∧ u.rstN = false := by
  obtain ⟨v, hv, hr, he, hreset⟩ := step_of_pinFall (s := { s with events := .resetPin false :: e :: rest }) rfl
  obtain ⟨t, ht⟩ := step_next v
  obtain ⟨w, hw⟩ := step_next { s with events := e :: .resetPin false :: rest }
  obtain ⟨u, hu, hru, _, hresetu⟩ := step_of_pinFall (step_events hw)
  exact ⟨t, u, run_two hv ht, run_two hw hu, inResetState_of_held hreset hr he ht, hresetu, hru⟩

/-- Settles O31: each pair of events in both orders, by the runs of this section. -/
theorem coincidentEventsInEitherOrder : Obligations.CoincidentEventsInEitherOrder := by
  refine ⟨fun s c rest hr hb => ⟨fun hc => ?_, fun h0 h1 => ⟨?_, ?_⟩⟩, fun _ _ => step_of_pinFall, run_pinFall⟩
  · obtain ⟨d, hd, hafter⟩ := run_sequencer_softReset (rest := rest) (c := c)
      (s := { s with events := .sequencer :: .hostWrite (wordAddr 0x004) c :: rest }) ⟨hr, hb, rfl⟩ hc
    have hibuf := ibufByte_congr (s := s) (t := { State.softReset { s with events := rest } with draws := d }) rfl hd
    exact ⟨_, _, run_softReset_sequencer ⟨hr, rfl⟩ hc, hafter, inResetState_softReset _, rfl, fun n => ⟨rfl, hibuf n⟩⟩
  · exact run_ack_sequencer ⟨hr, rfl⟩ hb h0
  · exact run_sequencer_ack ⟨hr, hb, rfl⟩ h1

end Sys2Proof.Proofs
end

section
/-! What `unpad` accepts and answers otherwise (40_padding.md R112), and the recurrences of CBC and CFB: in each
direction CHAIN before a block is the ciphertext block before it (41_modes.md R133 to R137). -/

namespace Sys2Proof.Proofs

open Sys2Proof.Machine Sys2Proof.Spec

/-! ### Padding -/

/-- Settles O33: `unpad_eq_ok_iff`, and the one error that `unpad` has. -/
theorem unpadAcceptsExactlyPaddedStrings : Obligations.UnpadAcceptsExactlyPaddedStrings := by
  refine fun y => ⟨fun z => unpad_eq_ok_iff, fun hno => ?_⟩
  cases h : unpad y with
  | ok z => exact absurd h (hno z)
  | error e => rw [error_of_unpad h]

/-! ### CHAIN before a block -/

section
variable {f : Work → Bytes → Bytes × Work}

/-- A block step that leaves its output in CHAIN has there, before each later block, the output block before it. -/
theorem workBefore_chain_of_output (hlen : ∀ w d, d.length ≤ 16 → d.length ≤ (f w d).1.length ∧ (f w d).1.length ≤ 16)
    (hchain : ∀ w d, (f w d).2.chain = blockOf (f w d).1) (w : Work) (x : Bytes) {i : Nat} (hi : i < blockCount x) :
    (workBefore f w x i).chain
      = if i = 0 then w.chain else blockOf (blk (runBlocks f w (blocks x)).1 (i - 1)) := by
  cases i with
  | zero => rfl
  | succ i =>
    rw [if_neg (Nat.succ_ne_zero i), Nat.add_sub_cancel, blk_runBlocks hlen w x (Nat.lt_of_succ_lt hi), ← hchain]
    rfl

/-- A block step that leaves its data in CHAIN has there, before each later block, the data block before it. -/
theorem workBefore_chain_of_input (hchain : ∀ w d, (f w d).2.chain = blockOf d) (w : Work) (x : Bytes) (i : Nat) :
    (workBefore f w x i).chain = if i = 0 then w.chain else blockOf (blk x (i - 1)) := by
  cases i with
  | zero => rfl
  | succ i => exact hchain _ _

end

/-! ### CBC and CFB -/

/-- Settles O35: block by block, with CHAIN the output block before it forward, and the data block before it back. -/
theorem cbcRecurrence : Obligations.CbcRecurrence := by
  intro p k v x i _ hi
  have hf := fun w d (hd : d.length ≤ 16) =>
    And.intro (hd.trans (length_cbcFwdBlock p k w d).ge) (length_cbcFwdBlock p k w d).le
  have hg := fun w d (hd : d.length ≤ 16) =>
    And.intro (hd.trans (length_cbcInvBlock p k w d).ge) (length_cbcInvBlock p k w d).le
  have hfwd : (workBefore (cbcFwdBlock p k) (Work.start v) x i).chain
      = if i = 0 then v else blockOf (blk (fwd p .cbc k v x) (i - 1)) :=
    workBefore_chain_of_output hf (cbcFwdBlock_chain p k) _ x hi
  have hinv : (workBefore (cbcInvBlock p k) (Work.start v) x i).chain = if i = 0 then v else blockOf (blk x (i - 1)) :=
    workBefore_chain_of_input (cbcInvBlock_chain p k) _ x i
  constructor
  · calc blk (fwd p .cbc k v x) i
        = (cbcFwdBlock p k (workBefore (cbcFwdBlock p k) (Work.start v) x i) (blk x i)).1 := blk_runBlocks hf _ x hi
      _ = _ := by rw [cbcFwdBlock, hfwd]
  · calc blk (inv p .cbc k v x) i
        = (cbcInvBlock p k (workBefore (cbcInvBlock p k) (Work.start v) x i) (blk x i)).1 := blk_runBlocks hg _ x hi
      _ = _ := by rw [cbcInvBlock, hinv]

/-- Settles O36: the same of CFB, whose last block may be short. -/
theorem cfbRecurrence : Obligations.CfbRecurrence := by
  intro p k v x i hi
  have hf := fun w d (hd : d.length ≤ 16) =>
    And.intro (length_cfbFwdBlock p k w d hd).ge ((length_cfbFwdBlock p k w d hd).le.trans hd)
  have hg := fun w d (hd : d.length ≤ 16) =>
    And.intro (length_cfbInvBlock p k w d hd).ge ((length_cfbInvBlock p k w d hd).le.trans hd)
  have hfwd : (workBefore (cfbFwdBlock p k) (Work.start v) x i).chain
      = if i = 0 then v else blockOf (blk (fwd p .cfb k v x) (i - 1)) :=
    workBefore_chain_of_output hf (cfbFwdBlock_chain p k) _ x hi
  have hinv : (workBefore (cfbInvBlock p k) (Work.start v) x i).chain = if i = 0 then v else blockOf (blk x (i - 1)) :=
    workBefore_chain_of_input (cfbInvBlock_chain p k) _ x i
  constructor
  · calc blk (fwd p .cfb k v x) i
        = (cfbFwdBlock p k (workBefore (cfbFwdBlock p k) (Work.start v) x i) (blk x i)).1 := blk_runBlocks hf _ x hi
      _ = _ := by rw [cfbFwdBlock, hfwd]
  · calc blk (inv p .cfb k v x) i
        = (cfbInvBlock p k (workBefore (cfbInvBlock p k) (Work.start v) x i) (blk x i)).1 := blk_runBlocks hg _ x hi
      _ = _ := by rw [cfbInvBlock, hinv]

end Sys2Proof.Proofs
end

section
/-! The commands as functions: each completes with its output where its checks pass (40_padding.md R115, R116,
41_modes.md R147, R148, 42_container.md R173, R174, 43_pipeline.md R180, R181), and the unsupported modes (R201). -/

namespace Sys2Proof.Proofs

open Sys2Proof.Machine Sys2Proof.Spec

/-! ### A command whose checks pass -/

section
variable {n : Needs} {s : State} (hp : s.precheck n = none)
include hp

/-- The input fits IBUF, so an output that exceeds it by at most an IV and a block of padding fits OBUF. -/
theorem le_obufSize_of_precheck {len : Nat} (h : len ≤ s.inLen.toNat + 32) : len ≤ Config.obufSize := by
  obtain ⟨_, _, hfits, _, _⟩ := (State.precheck_eq_none n s).mp hp
  have hsize := Config.obufSize_eq
  omega

theorem succeeded_finish {r : Except ErrorKind Output} {x : Bytes} (hr : r = .ok (plainOutput x))
    (hx : x.length ≤ s.inLen.toNat + 32) : Succeeded s (s.finish n r) x s.iv s.ivLen 0 := by
  rw [hr, State.finish_ok hp]
  exact State.succeeded_succeed (plainOutput x) s (le_obufSize_of_precheck hp hx)

theorem failed_finish {r : Except ErrorKind Output} {e : ErrorKind} (hr : r = .error e) :
    Failed s (s.finish n r) e.code := by
  rw [hr, State.finish_error hp]
  exact State.failed_fail e s

/-- A command that ends with `unpad`, on data no longer than its input. -/
theorem finish_unpad {r : Except ErrorKind Output} {y : Bytes} (hr : r = (unpad y).map plainOutput)
    (hy : y.length ≤ s.inLen.toNat) :
    (∀ z, unpad y = .ok z → Succeeded s (s.finish n r) z s.iv s.ivLen 0)
    ∧ ∀ e, unpad y = .error e → Failed s (s.finish n r) 3 := by
  refine ⟨fun z hz => ?_, fun e he => ?_⟩
  · have hlen := length_of_unpad_ok hz
    exact succeeded_finish hp (by rw [hr, hz]; rfl) (by omega)
  · rw [error_of_unpad he] at he
    exact failed_finish hp (e := .invalidPadding) (by rw [hr, he]; rfl)

end

/-! ### ENCRYPT -/

theorem encryptIv_eq (src : IvSrc) (s : State) :
    s.encryptIv src = if src = .rng then Config.rngDraw s.draws.rng else s.iv := by
  cases src <;> rfl

theorem encryptInput_eq (m : Mode) (x : Bytes) : encryptInput m x = if m = .cbc then pad x else x := by
  cases m <;> rfl

theorem drawn_eq (src : IvSrc) : (if isReg src then 0 else 1) = if src = .rng then 1 else 0 := by
  cases src <;> rfl

/-- Settles O44: `encrypt_succeeded`, with the IV, the data and the draw of each mode and IV source. -/
theorem encryptCompletes : Obligations.EncryptCompletes := by
  intro i m src s hi hk hv hl
  have hreg : isReg src = true → s.ivLen = 16 := fun h => hv (by cases src; cases h; rfl)
  have hs := encrypt_succeeded m src s hk hreg hl
  rw [drawn_eq, encryptOutput, encryptInput_eq] at hs
  exact ⟨_, _, exec_encryptForms hi s, encryptIv_eq src s, hs⟩

/-! ### DECRYPT -/

theorem precheck_decrypt {m : Mode} {s : State} (hk : s.keyLen = 32) (h16 : 16 ≤ s.inLen.toNat)
    (hl : s.inLen.toNat ≤ Config.ibufSize) (hcbc : m = .cbc → s.inLen.toNat % 16 = 0) :
    s.precheck (decryptNeeds m) = none :=
  (State.precheck_eq_none _ s).mpr
    ⟨fun _ => hk, (absurd · Bool.false_ne_true), hl, fun _ => h16, fun ha => hcbc (eq_cbc_of_isCbc ha)⟩

/-- DECRYPT of a container: the inverse transform under its IV, and the end of DECRYPT (R181). -/
theorem decryptOutput_of_le (p : BlockPrimitive) (m : Mode) (k : Key) {x : Bytes} (h16 : 16 ≤ x.length) :
    decryptOutput p m k x = (decryptFinish m (inv p m k (blockOf (x.take 16)) (x.drop 16))).map plainOutput := by
  rw [decryptOutput, splitContainer_of_le h16]

/-- The deciphered text is no longer than the container (R144). -/
theorem length_inv_drop_le (p : BlockPrimitive) (m : Mode) (k : Key) (iv : Block) {s : State}
    (hcbc : m = .cbc → s.inLen.toNat % 16 = 0) : (inv p m k iv (s.input.drop 16)).length ≤ s.inLen.toNat := by
  have hlen : (s.input.drop 16).length = s.inLen.toNat - 16 := by rw [List.length_drop, State.length_input]
  rw [length_inv p m k iv _ fun hm => by have := hcbc hm; omega]
  omega

/-- Settles O45: the modes other than CBC take nothing off the deciphered text. -/
theorem decryptStreamCompletes : Obligations.DecryptStreamCompletes := by
  intro i m s hi hm hk h16 hl
  have hcbc : m = .cbc → s.inLen.toNat % 16 = 0 := fun h => absurd h hm
  have hlen := length_inv_drop_le Config.primitive m s.key (blockOf (s.input.take 16)) hcbc
  refine ⟨_, exec_decryptForms hi s, decrypt_succeeded (precheck_decrypt hk h16 hl hcbc) ?_ hlen⟩
  rw [decryptOutput_of_le _ _ _ (s.length_input.symm ▸ h16)]
  cases m with
  | cbc => exact absurd rfl hm
  | cfb | ofb | ctr => rfl

/-- Settles O46: the end of DECRYPT.cbc is `unpad` of the deciphered text. -/
theorem decryptCbcCompletes : Obligations.DecryptCbcCompletes := by
  intro s hk h16 hl halign
  have hr := decryptOutput_of_le Config.primitive .cbc s.key (s.length_input.symm ▸ h16)
  obtain ⟨hok, herr⟩ := finish_unpad (precheck_decrypt hk h16 hl fun _ => halign) hr
    (length_inv_drop_le _ _ _ _ fun _ => halign)
  exact ⟨fun y hy => ⟨_, rfl, hok y hy⟩, fun e he => ⟨_, rfl, herr e he⟩⟩

/-! ### XFORM_FWD and XFORM_INV -/

/-- The instructions of `xformFwdForms` are XFORM_FWD of their mode. -/
theorem exec_xformFwdForms {i : Instr} {m : Mode} (h : (i, m) ∈ xformFwdForms) (s : State) :
    exec i s = .next (s.xformFwd m) := by
  simp only [xformFwdForms, List.mem_cons, Prod.mk.injEq, List.not_mem_nil, or_false] at h
  rcases h with ⟨rfl, rfl⟩ | ⟨rfl, rfl⟩ | ⟨rfl, rfl⟩ | ⟨rfl, rfl⟩ <;> rfl

/-- The instructions of `xformInvForms` are XFORM_INV of their mode. -/
theorem exec_xformInvForms {i : Instr} {m : Mode} (h : (i, m) ∈ xformInvForms) (s : State) :
    exec i s = .next (s.xformInv m) := by
  simp only [xformInvForms, List.mem_cons, Prod.mk.injEq, List.not_mem_nil, or_false] at h
  rcases h with ⟨rfl, rfl⟩ | ⟨rfl, rfl⟩ | ⟨rfl, rfl⟩ | ⟨rfl, rfl⟩ <;> rfl

/-- Settles O47: both transforms keep the length of the input, which the checks have found admissible. -/
theorem transformCommandsComplete : Obligations.TransformCommandsComplete := by
  intro i j m s hi hj hk hv hl halign
  have hp : s.precheck (xformNeeds m) = none := (State.precheck_eq_none _ s).mpr
    ⟨fun _ => hk, fun _ => hv, hl, (absurd · Bool.false_ne_true), fun ha => halign (eq_cbc_of_isCbc ha)⟩
  have hadm := admissible_of_precheck hp
  refine ⟨⟨_, exec_xformFwdForms hi s, succeeded_finish hp rfl ?_⟩,
    ⟨_, exec_xformInvForms hj s, succeeded_finish hp rfl ?_⟩⟩
  · rw [length_fwd _ _ _ _ _ hadm, State.length_input]
    exact Nat.le_add_right _ _
  · rw [length_inv _ _ _ _ _ hadm, State.length_input]
    exact Nat.le_add_right _ _

/-! ### PAD, UNPAD, ENCODE and DECODE -/

/-- PAD and UNPAD only ask that the input fits (R115, R116). -/
theorem precheck_padding {s : State} (hl : s.inLen.toNat ≤ Config.ibufSize) : s.precheck paddingNeeds = none :=
  (State.precheck_eq_none _ s).mpr ⟨nofun, nofun, hl, nofun, nofun⟩

/-- Settles O48: `pad` adds at most a block, and UNPAD ends with `unpad`. -/
theorem paddingCommandsComplete : Obligations.PaddingCommandsComplete := by
  intro s hl
  have hp := precheck_padding hl
  have hpad : (pad s.input).length ≤ s.inLen.toNat + 32 := by
    rw [length_pad, State.length_input]
    omega
  obtain ⟨hok, herr⟩ := finish_unpad hp rfl s.length_input.le
  exact ⟨⟨_, rfl, succeeded_finish hp rfl hpad⟩, fun y hy => ⟨_, rfl, hok y hy⟩, fun e he => ⟨_, rfl, herr e he⟩⟩

/-- Settles O49: ENCODE joins IVR and the input; DECODE splits the input, and writes its IV back. -/
theorem containerCommandsComplete : Obligations.ContainerCommandsComplete := by
  intro s hl
  refine ⟨fun hv => ?_, fun h16 => ?_⟩
  · have hp : s.precheck encodeNeeds = none :=
      (State.precheck_eq_none _ s).mpr ⟨nofun, fun _ => hv, hl, nofun, nofun⟩
    have hlen : (containerOf s.iv s.input).length ≤ s.inLen.toNat + 32 := by
      rw [length_containerOf, State.length_input]
      omega
    exact ⟨_, rfl, succeeded_finish hp rfl hlen⟩
  · have hp : s.precheck decodeNeeds = none :=
      (State.precheck_eq_none _ s).mpr ⟨nofun, nofun, hl, fun _ => h16, nofun⟩
    have hin : 16 ≤ s.input.length := s.length_input.symm ▸ h16
    have hlen : (s.input.drop 16).length ≤ Config.obufSize := le_obufSize_of_precheck hp (by
      rw [List.length_drop, State.length_input]
      omega)
    refine ⟨_, blockOf (s.input.take 16), rfl, toList_blockOf_take _ hin, ?_⟩
    rw [splitContainer_of_le hin, Except.map, State.finish_ok hp]
    exact State.succeeded_succeed { out := s.input.drop 16, ivOut := some _, drew := false } s hlen

/-! ### MODE 4 to 7 -/

/-- Settles O50: `exec` of each is the failure with code 1 and nothing else. -/
theorem unsupportedModesComplete : Obligations.UnsupportedModesComplete :=
  fun s _ _ =>
    have hfail := State.failed_fail .unsupportedMode s
    ⟨⟨_, rfl, hfail⟩, ⟨_, rfl, hfail⟩, ⟨_, rfl, hfail⟩, ⟨_, rfl, hfail⟩⟩

end Sys2Proof.Proofs
end

section
/-! What shows nowhere: the Sequencer's working state over every step (10_state.md R41), and KEY over every host access
and reset (60_exceptions.md R217). Both are overlaid on a state, and followed through what an input does. -/

namespace Sys2Proof.Proofs

open Sys2Proof.Machine Sys2Proof.Spec

/-- The state with another working state and another KEY. -/
def overlay (w : Work) (k : Key) (s : State) : State := { s with work := w, key := k }

/-- What an input makes of `s` and of `overlay w k s`: two states that differ at most in the working state and in KEY,
and in each of the two only if the overlay does. -/
structure Hidden (w : Work) (k : Key) (s t t' : State) : Prop where
  same : t' = overlay t'.work t'.key t
  work : w = s.work → t'.work = t.work
  key : k = s.key → t'.key = t.key

/-- The inputs to come are neither. -/
theorem Hidden.of_withEvents {w : Work} {k : Key} {s t t' : State} {rest : List Event}
    (h : Hidden w k { s with events := rest } t t') : Hidden w k s t t' :=
  ⟨h.same, h.work, h.key⟩

section
variable (w : Work) (k : Key) (s : State)

/-! ### Host accesses and resets -/

theorem hidden_softReset : Hidden w k s s.softReset (overlay w k s).softReset :=
  ⟨rfl, fun _ => rfl, fun _ => rfl⟩

theorem hidden_writeCtrl (x : Word) : Hidden w k s (s.writeCtrl x) ((overlay w k s).writeCtrl x) := by
  rcases State.writeCtrl_cases x s with ⟨hx, h⟩ | ⟨hx, h⟩ <;>
    rcases State.writeCtrl_cases x (overlay w k s) with ⟨hx', h'⟩ | ⟨hx', h'⟩
  · rw [h, h']; exact hidden_softReset w k s
  · exact absurd (hx'.symm.trans hx) Bool.false_ne_true
  · exact absurd (hx.symm.trans hx') Bool.false_ne_true
  · rw [h, h']; exact ⟨rfl, id, id⟩

theorem hidden_writeTarget (t : Target) (x : Word) :
    Hidden w k s (s.writeTarget t x) ((overlay w k s).writeTarget t x) := by
  cases t
  case ctrl => exact hidden_writeCtrl w k s x
  case cmd => exact ⟨rfl, id, id⟩
  case key i =>
    constructor <;> simp only [State.writeTarget, overlay, imp_self]
    exact congrArg (setLanes · i x)
  all_goals constructor <;> simp only [State.writeTarget, overlay, imp_self]

theorem hidden_hostWrite (a : WordAddr) (x : Word) :
    Hidden w k s (s.hostWrite a x) ((overlay w k s).hostWrite a x) := by
  cases h : s.status.busy && (decodeAddr a).busyFiltered with
  | true =>
    have h' : ((overlay w k s).status.busy && (decodeAddr a).busyFiltered) = true := h
    rw [State.hostWrite, State.hostWrite, if_pos h, if_pos h']
    exact ⟨rfl, id, id⟩
  | false =>
    have h' : ((overlay w k s).status.busy && (decodeAddr a).busyFiltered) = false := h
    rw [State.hostWrite, State.hostWrite, if_neg (by rw [h]; exact Bool.false_ne_true),
      if_neg (by rw [h']; exact Bool.false_ne_true)]
    exact hidden_writeTarget w k s _ x

theorem hidden_hostRead (a : WordAddr) :
    Hidden w k s (s.hostRead a) ((overlay w k s).hostRead a) := by
  have hword : (overlay w k s).readTarget (decodeAddr a) = s.readTarget (decodeAddr a) := by
    cases decodeAddr a <;> rfl
  rcases State.hostRead_cases a s with ⟨hb, hu, h⟩ | ⟨hs, h⟩
  · rw [h, State.hostRead_unspecified (s := overlay w k s) hb hu]
    exact ⟨rfl, id, id⟩
  · rw [h, State.hostRead_specified (s := overlay w k s) hs, hword]
    exact ⟨rfl, id, id⟩

theorem hidden_setResetPin (level : Bool) :
    Hidden w k s (s.setResetPin level) ((overlay w k s).setResetPin level) := by
  unfold State.setResetPin
  cases h : level && s.rstN with
  | true =>
    have h' : (level && (overlay w k s).rstN) = true := h
    rw [h', if_pos rfl, if_pos rfl]
    exact ⟨rfl, id, id⟩
  | false =>
    have h' : (level && (overlay w k s).rstN) = false := h
    rw [h', if_neg Bool.false_ne_true, if_neg Bool.false_ne_true]
    exact ⟨rfl, fun _ => rfl, fun _ => rfl⟩

/-! ### The working state over a command -/

/-- A completion discards the working state, and no check reads it (R41, R207). -/
theorem finish_overlay (n : Needs) (r : Except ErrorKind Output) :
    (overlay w s.key s).finish n r = s.finish n r := by
  have hp : (overlay w s.key s).precheck n = s.precheck n := rfl
  rcases State.finish_cases n r s with ⟨e, hs, h⟩ | ⟨e, hs, rfl, h⟩ | ⟨o, hs, rfl, h⟩ <;> rw [h]
  · exact State.finish_of_precheck_error r (hp.trans hs)
  · exact State.finish_error (hp.trans hs)
  · exact State.finish_ok (hp.trans hs)

theorem exec_overlay (i : Instr) : exec i (overlay w s.key s) = exec i s := by
  cases i
  case encryptNoMode | decryptNoMode | xformFwdNoMode | xformInvNoMode => rfl
  all_goals exact congrArg Host.Outcome.next (finish_overlay w s _ _)

theorem runCommand_overlay : (overlay w s.key s).runCommand = s.runCommand := by
  unfold State.runCommand
  cases h : decode s.fetchCommand with
  | ok i =>
    have h' : decode (overlay w s.key s).fetchCommand = .ok i := h
    rw [h']
    exact exec_overlay w s i
  | error e =>
    have h' : decode (overlay w s.key s).fetchCommand = .error e := h
    rw [h']
    rfl

/-! ### Over a step -/

theorem step_overlay_of_port {e : Event} {rest : List Event} (he : s.events = e :: rest) (hp : e ≠ .sequencer) :
    ∃ t t', step s = .next t ∧ step (overlay w k s) = .next t' ∧ Hidden w k s t t' := by
  cases e with
  | hostWrite a x =>
    rcases Bool.eq_false_or_eq_true s.rstN with hr | hr
    · exact ⟨_, _, step_of_hostWrite he hr, step_of_hostWrite (s := overlay w k s) he hr,
        (hidden_hostWrite w k { s with events := rest } a x).of_withEvents⟩
    · exact ⟨_, _, step_of_hostWrite_held he hr, step_of_hostWrite_held (s := overlay w k s) he hr, rfl, id, id⟩
  | hostRead a =>
    rcases Bool.eq_false_or_eq_true s.rstN with hr | hr
    · exact ⟨_, _, step_of_hostRead he hr, step_of_hostRead (s := overlay w k s) he hr,
        (hidden_hostRead w k { s with events := rest } a).of_withEvents⟩
    · exact ⟨_, _, step_of_hostRead_held he hr, step_of_hostRead_held (s := overlay w k s) he hr, rfl, id, id⟩
  | sequencer => exact absurd rfl hp
  | resetPin level =>
    exact ⟨_, _, step_of_resetPin he, step_of_resetPin (s := overlay w k s) he,
      (hidden_setResetPin w k { s with events := rest } level).of_withEvents⟩

/-- Where both states run the command or both hold, they differ at most in the working state after it. -/
theorem run_or_hold_overlay (c : Bool) :
    ∃ t t', (if c then s.runCommand else .next s) = .next t
      ∧ (if c then (overlay w s.key s).runCommand else .next (overlay w s.key s)) = .next t'
      ∧ Hidden w s.key s t t' := by
  cases c with
  | false => exact ⟨s, overlay w s.key s, rfl, rfl, rfl, id, id⟩
  | true =>
    obtain ⟨t, ht, _⟩ := State.runCommand_cases s
    exact ⟨t, t, ht, (runCommand_overlay w s).trans ht, rfl, fun _ => rfl, fun _ => rfl⟩

theorem step_overlay_work :
    ∃ t t', step s = .next t ∧ step (overlay w s.key s) = .next t' ∧ Hidden w s.key s t t' := by
  cases he : s.events with
  | nil =>
    have he' : (overlay w s.key s).events = [] := he
    simp only [step, he, he', State.quiet]
    exact run_or_hold_overlay w s _
  | cons e rest =>
    by_cases hp : e = .sequencer
    · subst hp
      have he' : (overlay w s.key s).events = .sequencer :: rest := he
      simp only [step, he, he', State.handle, State.sequencerStep]
      obtain ⟨t, t', ht, ht', hh⟩ := run_or_hold_overlay w { s with events := rest } _
      exact ⟨t, t', ht, ht', hh.of_withEvents⟩
    · exact step_overlay_of_port w s.key s he hp

end

/-! ### The obligations -/

/-- Settles O57: the other state is an overlay with the same KEY, and `step_overlay_work`. -/
theorem workingStateIsNeverRead : Obligations.WorkingStateIsNeverRead := by
  intro s s' hs
  obtain ⟨t, t', ht, ht', hh⟩ := step_overlay_work s'.work s
  refine ⟨t, t', ht, (congrArg step hs).trans ht', hh.same.trans ?_⟩
  rw [hh.key rfl]
  rfl

/-- Settles O58: the other state is an overlay with the same working state, and the input is one of the port's. -/
theorem keyIsNotReadable : Obligations.KeyIsNotReadable := by
  intro s s' hs hin
  obtain ⟨e, he, hp⟩ : ∃ e, s.events.head? = some e ∧ e ≠ .sequencer := by
    rcases hin with ⟨a, x, he⟩ | ⟨a, he⟩ | ⟨level, he⟩ <;> exact ⟨_, he, nofun⟩
  obtain ⟨rest, he⟩ := List.head?_eq_some_iff.mp he
  obtain ⟨t, t', ht, ht', hh⟩ := step_overlay_of_port s.work s'.key s he hp
  refine ⟨t, t', ht, (congrArg step hs).trans ht', hh.same.trans ?_⟩
  rw [hh.work rfl]
  rfl

end Sys2Proof.Proofs
end

section
/-! What every command word does right after a reset (70_reset_and_hazards.md R233): KEYLEN, IVLEN and IN_LEN are 0
there, and the checks of R207 take it from there. -/

namespace Sys2Proof.Proofs

open Sys2Proof.Machine Sys2Proof.Spec

/-! ### The checks with KEYLEN, IVLEN and IN_LEN at 0 -/

/-- A command that reads the key or IVR finds its length 0 (R207, checks 3 and 4). -/
theorem precheck_zero_of_reads {i : Instr} (h : readsKey i = true ∨ readsIv i = true) :
    precheck (encode i) 0 0 0 = some 2 := by
  cases i
  case padData | unpadData | decodeContainer => exact absurd h (by decide)
  case encryptNoMode | decryptNoMode | xformFwdNoMode | xformInvNoMode => exact absurd h (by simp [readsKey, readsIv])
  all_goals decide

/-- DECODE finds no container in fewer than 16 bytes (R207, check 6). -/
theorem precheck_decode_of_short {s : State} (h : s.inLen.toNat < 16) :
    s.precheck decodeNeeds = some .malformedContainer := by
  have hsize := Config.ibufSize_ge
  have hfits : ¬ Config.ibufSize < s.inLen.toNat := by omega
  simp [State.precheck, State.inputLen, decodeNeeds, hfits, h]

theorem input_eq_nil {s : State} (h : s.inLen = 0) : s.input = [] :=
  List.length_eq_zero_iff.mp (by rw [State.length_input, h]; rfl)

theorem pad_nil : pad [] = List.replicate 16 0x10 := rfl

theorem unpad_nil : unpad [] = .error .invalidPadding := rfl

/-! ### The completion of a word of an instruction -/

theorem runCommand_of_encode {s : State} {i : Instr} (hi : WellFormed i) (h : s.cmdLatch = encode i) :
    s.runCommand = exec i s :=
  runCommand_of_decode (h ▸ decodeEncodeRoundTrip i hi)

section
variable {s u : State} (hk : s.keyLen = 0) (hv : s.ivLen = 0) (hl : s.inLen = 0) (hu : s.runCommand = .next u)
include hl hu

theorem succeeded_pad_of_empty (h : s.cmdLatch = encode .padData) :
    Succeeded s u (List.replicate 16 0x10) s.iv s.ivLen 0 := by
  obtain ⟨⟨t, ht, hs⟩, _⟩ := paddingCommandsComplete s (by rw [hl]; exact Nat.zero_le _)
  cases ((runCommand_of_encode rfl h).trans ht).symm.trans hu
  rwa [input_eq_nil hl, pad_nil] at hs

theorem failed_unpad_of_empty (h : s.cmdLatch = encode .unpadData) : Failed s u 3 := by
  obtain ⟨_, _, herr⟩ := paddingCommandsComplete s (by rw [hl]; exact Nat.zero_le _)
  obtain ⟨t, ht, hf⟩ := herr .invalidPadding (by rw [input_eq_nil hl, unpad_nil])
  cases ((runCommand_of_encode rfl h).trans ht).symm.trans hu
  exact hf

theorem failed_decode_of_empty (h : s.cmdLatch = encode .decodeContainer) : Failed s u 4 := by
  have hp : s.precheck decodeNeeds = some .malformedContainer := precheck_decode_of_short (by rw [hl]; decide)
  have hrun : s.runCommand = .next (s.finish decodeNeeds _) := runCommand_of_encode rfl h
  rw [State.finish_of_precheck_error _ hp] at hrun
  cases hrun.symm.trans hu
  exact State.failed_fail .malformedContainer s

include hk hv

theorem failed_of_precheck_zero {c : BitVec 4} (h : precheck s.cmdLatch 0 0 0 = some c) : Failed s u c := by
  obtain ⟨t, ht, hf⟩ := failed_of_precheck (s := s) (c := c) (by rw [hk, hv, hl]; exact h)
  cases ht.symm.trans hu
  exact hf

end

/-- Settles O59: the CMD write leaves the lengths at 0, and each kind of word has its own case of this section. -/
theorem commandsRightAfterReset : Obligations.CommandsRightAfterReset := by
  intro s w rest hs ⟨hr, he⟩
  have hb : s.status.busy = false := by rw [hs.status]; rfl
  have hnext : CompletionNext { s.accept w with events := .sequencer :: rest } rest := ⟨hr, rfl, rfl⟩
  obtain ⟨u, hu, _⟩ := State.runCommand_cases { s.accept w with events := rest }
  have hfail {c : BitVec 4} (h : precheck w 0 0 0 = some c) : Failed { s.accept w with events := rest } u c :=
    failed_of_precheck_zero (s := { s.accept w with events := rest }) hs.keyLen hs.ivLen hs.inLen hu h
  have hpad (h : w = encode .padData) : Succeeded { s.accept w with events := rest } u _ s.iv s.ivLen 0 :=
    succeeded_pad_of_empty (s := { s.accept w with events := rest }) hs.inLen hu h
  refine ⟨_, u, step_of_writeNext ⟨hr, he⟩ decodeAddr_cmd (.inl hb), ?_, rfl, rfl, ?_, hpad, ?_, ?_, ?_, ?_⟩
  · exact (step_of_completionNext hnext).trans hu
  · exact fun i _ hi hw => hfail (hw ▸ precheck_zero_of_reads hi)
  · exact failed_unpad_of_empty (s := { s.accept w with events := rest }) hs.inLen hu
  · exact failed_decode_of_empty (s := { s.accept w with events := rest }) hs.inLen hu
  · exact fun hw => hfail (precheck_of_unsupported hw _ _ _)
  · exact fun hw => hfail (precheck_of_not_legal hw _ _ _)

end Sys2Proof.Proofs
end
